-- ==== Sys2Proof/Word.lean ====
section
/-! DEFINITION. The bit-vector types of FRM (spec/00_scope.md R6, R8). Every quantity is unsigned and bit 0 is the
least significant bit; FRM has no signed quantity. -/

namespace Sys2Proof

/-- A byte: `BYTE_BITS` = `ACC_BITS` = `RSP_DATA_BITS` = 8 (R6). -/
abbrev Byte := BitVec 8

/-- A header field: `FIELD_BITS` = `LEN_BITS` = 32 (R6). -/
abbrev Word32 := BitVec 32

/-- A command word: `CMD_BITS` = 11 (R6, R60). It is presented in parallel and has no byte order. -/
abbrev CmdWord := BitVec 11

/-- A response word: `RSP_CODE_BITS` + `RSP_DATA_BITS` = 10 (R6, R65). -/
abbrev RspWord := BitVec 10

/-- The header byte index: the values 0 to 12 of the 4-bit register HIDX (R6, R26). The values 13 to 15 cannot be
written, as spec/93_implementation_defined.md U10 asks (assumption log 5). -/
abbrev HdrIndex := Fin 13

end Sys2Proof
end

