-- ==== Sys2Proof/Syntax.lean ====
section
/-! DEFINITION. The syntax: the six commands of spec/opcode_table.json, and the lines of the assembler notation of
spec/30_encoding.md R72 to R75. -/

namespace Sys2Proof

/-- The six commands (30_encoding.md R61), in the table's order. `abs` carries its one operand, the payload byte
`imm8`, at every value the encoding admits (R62); no other command has an operand. -/
inductive Instr where
  /-- CLR: clear all state, start a new payload (R80). -/
  | clr
  /-- ABS imm8: absorb one payload byte (R82). -/
  | abs (imm8 : Byte)
  /-- RDC: read the checksum accumulator (R84). -/
  | rdc
  /-- BLD: build the header, or fail if oversize (R100). -/
  | bld
  /-- EMT: emit the next header byte (R102). -/
  | emt
  /-- RDS: read the status byte (R120). -/
  | rds
deriving DecidableEq, Repr

/-- The six mnemonics as an assembler line names them (R61, R72). -/
inductive Mnemonic where
  | clr | abs | rdc | bld | emt | rds
deriving DecidableEq, Repr

/-- A line of the assembler notation, its literals already read as numbers (R72, R74, R75). -/
inductive AsmLine where
  /-- A line that is empty or holds a comment only. -/
  | blank
  /-- A mnemonic, its operand if one is written, and its repeat count `xN` (1 where none is written) (R72). -/
  | command (mnemonic : Mnemonic) (operand : Option Nat) (times : Nat)
  /-- `.word 0x6AB`: any word, legal or not (R74). -/
  | word (value : Nat)
  /-- The pseudo-instruction `CHECKSUM b_0, ..., b_(n-1)` (R75). -/
  | checksum (payload : List Nat)
  /-- The pseudo-instruction `BUILDHEADER b_0, ..., b_(n-1)` (R75). -/
  | buildHeader (payload : List Nat)
deriving DecidableEq, Repr

end Sys2Proof
end

