-- ==== Sys2Proof/WellFormed.lean ====
section
/-! DEFINITION. Which terms are well-formed: command words (spec/30_encoding.md R63) and assembler lines (R72, R74,
R75). An `Instr` needs no check of its own: its one operand is a byte by its type, and every byte is admitted (R62,
R63), so there is no ill-formed `Instr`; that each is encoded by a legal word is Sys2Proof/Laws/PerInstr.lean. -/

namespace Sys2Proof

/-- R63: a word is legal when `op` is 1 (any `imm8`), or `op` is 0, 2, 3, 4 or 5 and `imm8` is `0x00`. Written on the
number `w`, so that it is a second reading of the encoding beside `decode`. -/
def legalWord (w : CmdWord) : Bool :=
  w.toNat / 256 == 1 || (w.toNat / 256 ≤ 5 && w.toNat % 256 == 0)

/-- R72: ABS takes one operand, 0 to 255; an operand on any other command is an assembly error. -/
def operandWellFormed : Mnemonic → Option Nat → Bool
  | .abs, some n => n < 256
  | .abs, none => false
  | _, some _ => false
  | _, none => true

/-- R75: the operands of a pseudo-instruction are payload bytes. -/
def payloadWellFormed (payload : List Nat) : Bool := payload.all (· < 256)

/-- The lines for which the assembler produces words (R72, R74, R75). -/
def AsmLine.wellFormed : AsmLine → Bool
  | .blank => true
  | .command m operand _ => operandWellFormed m operand
  | .word value => value < 2048
  | .checksum payload => payloadWellFormed payload
  | .buildHeader payload => payloadWellFormed payload

end Sys2Proof
end

