-- ==== Sys2Proof/Decode.lean ====
section
/-! DEFINITION. Decoding a command word, total on all 2048 words, and encoding a command (spec/30_encoding.md R60 to
R64); the opcode table as data (R76). -/

namespace Sys2Proof

/-- `op = cmd[10:8]` (R60). -/
def opField (w : CmdWord) : BitVec 3 := w.extractLsb' 8 3

/-- `imm8 = cmd[7:0]` (R60, R62): used as it stands, not sign-extended, scaled or shifted. -/
def immField (w : CmdWord) : Byte := w.extractLsb' 0 8

/-- Why a word is no command: the two kinds of illegal word of R63. The response is the same for both (R122); the
names are the model's (assumption log 12). -/
inductive DecodeError where
  /-- A non-zero `imm8` under an `op` other than 1: the second test of R64. -/
  | nonzeroImmediate (op : BitVec 3) (imm8 : Byte)
  /-- `op` 6 or 7 with `imm8` zero: the last line of R64. -/
  | reservedOpcode (op : BitVec 3)
deriving DecidableEq, Repr

/-- R64, test by test in its order. -/
def decode (w : CmdWord) : Except DecodeError Instr :=
  if opField w = 1 then .ok (.abs (immField w))
  else if immField w ≠ 0 then .error (.nonzeroImmediate (opField w) (immField w))
  else if opField w = 0 then .ok .clr
  else if opField w = 2 then .ok .rdc
  else if opField w = 3 then .ok .bld
  else if opField w = 4 then .ok .emt
  else if opField w = 5 then .ok .rds
  else .error (.reservedOpcode (opField w))

/-- The `op` field of a command (R61). -/
def Instr.opcode : Instr → BitVec 3
  | .clr => 0
  | .abs _ => 1
  | .rdc => 2
  | .bld => 3
  | .emt => 4
  | .rds => 5

/-- The `imm8` field of a command: the payload byte for ABS, `0x00` for every other (R60). -/
def Instr.immediate : Instr → Byte
  | .abs imm8 => imm8
  | .clr | .rdc | .bld | .emt | .rds => 0

/-- R60, R64: `op` in bits 10:8 and `imm8` in bits 7:0. -/
def encode (i : Instr) : CmdWord := i.opcode ++ i.immediate

/-- One row of spec/opcode_table.json: a word `w` selects it when `w &&& mask = pattern` (R76). -/
structure OpcodeRow where
  mnemonic : Mnemonic
  pattern : CmdWord
  mask : CmdWord
deriving DecidableEq, Repr

/-- spec/opcode_table.json, row by row (R76): the masks are `0x700` for ABS and `0x7FF` for the other five. -/
def opcodeTable : List OpcodeRow :=
  [⟨.clr, 0x000, 0x7FF⟩, ⟨.abs, 0x100, 0x700⟩, ⟨.rdc, 0x200, 0x7FF⟩,
   ⟨.bld, 0x300, 0x7FF⟩, ⟨.emt, 0x400, 0x7FF⟩, ⟨.rds, 0x500, 0x7FF⟩]

/-- R76: the word selects the row. -/
def OpcodeRow.selectedBy (r : OpcodeRow) (w : CmdWord) : Bool := w &&& r.mask == r.pattern

/-- The row a command belongs to, by its mnemonic (R61). -/
def Instr.mnemonic : Instr → Mnemonic
  | .clr => .clr
  | .abs _ => .abs
  | .rdc => .rdc
  | .bld => .bld
  | .emt => .emt
  | .rds => .rds

/-- The command word whose bits are the low `nbits` bits of `w`, as the opcode table numbers them; a number that needs
more than the 11 wires of `cmd` is no command word (assumption log 8). -/
def tableWord (nbits w : Nat) : Option CmdWord :=
  if w % 2 ^ nbits < 2 ^ 11 then some (BitVec.ofNat 11 (w % 2 ^ nbits)) else none

/-- The instruction `decode` reads from a table word. A command word is 11 parallel bits and is never laid out in bytes
(R60), so there is no byte order to apply. -/
def decodeTableWord (nbits w : Nat) : Option Instr :=
  (tableWord nbits w).bind fun word => (decode word).toOption

end Sys2Proof
end

