-- ==== Sys2Proof/Config.lean ====
section
/-! DEFINITION. The parameters of FRM that a claim names (spec/00_scope.md R6). All are constants: the spec leaves
none open. The widths of R6 are the types of Word.lean. -/

namespace Sys2Proof.Config

/-- `MAGIC`: the value of the header's first field (R6, R16), a hardwired constant and no register. Its literal is
unaudited in the source (assumption log 11), so it stands here once and under its name. -/
def magic : Word32 := 0x544F4F42

/-- `LEN_MAX` = 2^32 - 1: the largest payload length a header can carry (R6). -/
def lenMax : Word32 := 0xFFFFFFFF

/-- `HDR_BYTES` = 12: the size of the header (R6). -/
def hdrBytes : Nat := 12

end Sys2Proof.Config
end

