-- ==== Sys2Proof/Machine/State.lean ====
section
/-! DEFINITION. The state of FRM: the six registers of spec/10_state.md R20, the output signals of
spec/30_encoding.md R66, and the input signals still to come; the reasons for a stop; the state after reset. -/

namespace Sys2Proof.Machine

/-- The three errors of FRM (60_exceptions.md R130). -/
inductive Error where
  /-- `ERR_OVERSIZE`: answered by BLD only, when OVF is 1 (R132). -/
  | oversize
  /-- `ERR_SEQ`: answered by EMT only, when no header byte is available (R133). -/
  | seq
  /-- `ERR_ILLEGAL`: answered to every word that is no command (R134). -/
  | illegal
deriving DecidableEq, Repr

/-- The `code` field of a response (30_encoding.md R65). -/
inductive Code where
  | ok
  | err (e : Error)
deriving DecidableEq, Repr

/-- A response: the pair `(code, data)` (00_scope.md R18, 30_encoding.md R65). -/
structure Response where
  code : Code
  data : Byte
deriving DecidableEq, Repr

/-- The input signals at one rising edge of `clk` (30_encoding.md R66). -/
structure PortIn where
  /-- Synchronous reset, active high (R150). -/
  rst : Bool
  /-- 1 when `cmd` carries a command to execute at this edge. -/
  cmdValid : Bool
  /-- The command word; ignored when `cmd_valid` is 0. -/
  cmd : CmdWord
deriving DecidableEq, Repr

/-- What a rising edge asks of FRM (R66, R124, R150). -/
inductive Event where
  | reset
  | command (w : CmdWord)
  | idle
deriving DecidableEq, Repr

/-- The whole state. The first six fields are the architectural state (10_state.md R20); `rspValid` and `rsp` are the
output signals of 30_encoding.md R66, held here because the host's step returns a state alone (assumption log 1);
`edges` is the model's own field (assumption log 2). -/
structure State where
  /-- `ACC`, the running checksum (R21). -/
  acc : Byte
  /-- `LEN`, the running payload byte count, saturating at `LEN_MAX` (R22). -/
  len : Word32
  /-- `OVF`: more than `LEN_MAX` bytes absorbed since the last clear (R23). -/
  ovf : Bool
  /-- `HDR[0..11]`, the last header built, index = offset on the wire (R24). -/
  hdr : Vector Byte 12
  /-- `HVALID`: HDR holds a built header (R25). -/
  hvalid : Bool
  /-- `HIDX`, the offset of the next header byte to emit, 12 when the header is exhausted (R26). -/
  hidx : HdrIndex
  /-- `rsp_valid`: `rsp` carries the response of the command executed at the previous edge (R66). -/
  rspValid : Bool
  /-- `rsp`, held until the next command replaces it (R65). -/
  rsp : Response
  /-- The input signals at the rising edges to come, next first. What the host will do is not FRM's: a claim holds for
  every list. Past its end the host drives nothing (R124). -/
  edges : List PortIn
deriving DecidableEq, Repr

/-- The reasons FRM stops with a fault: none. FRM never halts (70_reset_and_hazards.md R164), and its errors are
responses after which it accepts the next command at once (60_exceptions.md R131). Assumption log 7: unsafe, were there
hardware that locks up. -/
inductive Fault where
deriving DecidableEq, Repr

/-- The reasons the model refuses an instruction. -/
inductive Refusal where
  /-- The instruction has no meaning in the model. Raised only by an arm of `exec` that says so by name; no arm does,
  since every command has its meaning. Safe: the model stops where hardware goes on. -/
  | notModelled (mnemonic : String)
deriving DecidableEq, Repr

/-- FRM right after reset: every register at the value of 10_state.md R33, and `rsp_valid` 0 (70_reset_and_hazards.md
R150). DESIGN CHOICE: `rsp` is `(OK, 0x00)` (assumption log 3) and no input is presented yet (assumption logs 2, 8). -/
def State.reset : State where
  acc := 0x00
  len := 0x00000000
  ovf := false
  hdr := Vector.replicate 12 0x00
  hvalid := false
  hidx := 0
  rspValid := false
  rsp := ⟨.ok, 0x00⟩
  edges := []

end Sys2Proof.Machine
end

