-- ==== Sys2Proof/Machine/Operands.lean ====
section
/-! DEFINITION. The values a command takes: the immediate of ABS and the header byte of EMT. No command takes a register
operand or an address (spec/10_state.md R30, spec/20_memory.md R40). -/

namespace Sys2Proof.Machine

/-- R62: the payload byte of ABS is `imm8` itself, unsigned, not sign-extended, scaled or shifted. -/
def payloadByte (imm8 : Byte) : Byte := imm8

/-- R102: the byte EMT would return: `HDR[HIDX]` while a header is built and not exhausted, none when `HVALID` is 0 or
`HIDX` is 12. -/
def availableByte (s : State) : Option Byte :=
  if s.hvalid then (if h : s.hidx.val < 12 then some s.hdr[s.hidx.val] else none) else none

end Sys2Proof.Machine
end

