-- ==== Sys2Proof/Machine/Flags.lean ====
section
/-! DEFINITION. The flag and counter computations: OVF and LEN under absorption, and the STATUS byte. FRM has no carry,
zero or sign flag: the wrap of ACC is silent (spec/40_checksum.md R86). -/

namespace Sys2Proof.Machine

/-- R82, R87: LEN after one more byte; it stops at `LEN_MAX` and never wraps. -/
def lenAfterByte (len : Word32) : Word32 := if len = Config.lenMax then len else len + 1

/-- R82: OVF after one more byte; set when LEN is already at `LEN_MAX`, never cleared by a byte. -/
def ovfAfterByte (len : Word32) (ovf : Bool) : Bool := if len = Config.lenMax then true else ovf

/-- R27, R120: `STATUS = (HIDX << 2) | (HVALID << 1) | OVF`; bits 7:6 read as zero. -/
def statusByte (s : State) : Byte :=
  (BitVec.ofNat 8 s.hidx.val <<< 2) ||| ((BitVec.ofBool s.hvalid).setWidth 8 <<< 1) |||
    (BitVec.ofBool s.ovf).setWidth 8

end Sys2Proof.Machine
end

