-- ==== Sys2Proof/Machine/Pure.lean ====
section
/-! DEFINITION. The pure functions every command rule refers to (spec/00_scope.md R10 to R13), the frame
(spec/30_encoding.md R71) and a consumer's decoding of a header (R69). -/

namespace Sys2Proof.Machine

/-- R10: the sum of all bytes, as an unbounded integer, modulo 256. The source's `checksum`. -/
def sum8 (bs : List Byte) : Byte := BitVec.ofNat 8 ((bs.map BitVec.toNat).sum % 256)

/-- R11, R101: the little-endian 32-bit packer; output byte `k` is input bits `8k+7 .. 8k`. -/
def le32 (w : Word32) : Vector Byte 4 :=
  #v[w.extractLsb' 0 8, w.extractLsb' 8 8, w.extractLsb' 16 8, w.extractLsb' 24 8]

/-- R11: the number that four bytes in little-endian order stand for. -/
def unle32 (v : Vector Byte 4) : Nat :=
  v[0].toNat + 256 * v[1].toNat + 65536 * v[2].toNat + 16777216 * v[3].toNat

/-- R12: `le32(m) ++ le32(l) ++ le32(zext_32(c))`, twelve bytes by its type. -/
def hdr (m l : Word32) (c : Byte) : Vector Byte 12 := le32 m ++ le32 l ++ le32 (c.setWidth 32)

/-- The one error kind of the source that is the Framer's (R5). The other four belong to the excluded Transport and
glue (R144). -/
inductive SourceError where
  /-- `OversizedPayloadError`: the payload's length does not fit in the length field (R13). -/
  | oversizedPayload
deriving DecidableEq, Repr

/-- R13: the source's `buildHeader`, by its requirement and not by its reference program (90_conflicts.md C1). -/
def buildHeader (bs : List Byte) : Except SourceError (Vector Byte 12) :=
  if Config.lenMax.toNat < bs.length then .error .oversizedPayload
  else .ok (hdr Config.magic (BitVec.ofNat 32 bs.length) (sum8 bs))

/-- R71: the header followed by the raw payload bytes. Sending it is the excluded Transport's. -/
def frame (bs : List Byte) : Except SourceError (List Byte) :=
  (buildHeader bs).map fun h => h.toList ++ bs

/-- The three fields a consumer reads from twelve bytes (R69). -/
structure HeaderFields where
  magic : Nat
  length : Nat
  checksum32 : Nat
deriving DecidableEq, Repr

/-- R69: what a consumer of the twelve bytes does; FRM itself never decodes. -/
def decodeHeader (h : Vector Byte 12) : HeaderFields where
  magic := unle32 #v[h[0], h[1], h[2], h[3]]
  length := unle32 #v[h[4], h[5], h[6], h[7]]
  checksum32 := unle32 #v[h[8], h[9], h[10], h[11]]

end Sys2Proof.Machine
end

