-- ==== Sys2Proof/Machine/Ops.lean ====
section
/-! DEFINITION. The named operations over the registers and the port that the meanings are written with. All writes of
one command happen together and every right-hand side reads the state before the command (spec/00_scope.md R9). -/

namespace Sys2Proof.Machine

/-- The numeric code of an error (30_encoding.md R65). -/
def Error.number : Error → BitVec 2
  | .oversize => 1
  | .seq => 2
  | .illegal => 3

/-- The 2-bit `code` field (30_encoding.md R65). -/
def Code.bits : Code → BitVec 2
  | .ok => 0
  | .err e => e.number

/-- The 10-bit response word: `code` in bits 9:8, `data` in bits 7:0 (30_encoding.md R65). -/
def Response.word (r : Response) : RspWord := r.code.bits ++ r.data

/-- `rsp(code, data)`: the port carries the response and says so (30_encoding.md R65, R66). -/
def respond (code : Code) (data : Byte) (s : State) : State :=
  { s with rspValid := true, rsp := ⟨code, data⟩ }

/-- `raise <Error>` (00_scope.md R9): FRM's only form of exception. The response carries the error's code and data
`0x00`; nothing is saved, no mode changes, control goes nowhere (60_exceptions.md R131). The writes a rule lists for its
error case are done beside it; there is no return from it, since nothing was entered (R137). -/
def raise (e : Error) (s : State) : State := respond (.err e) 0x00 s

/-- The header serializer's registers at zero (R80; the error case of R100). -/
def wipeHeader (s : State) : State :=
  { s with hdr := Vector.replicate 12 0x00, hvalid := false, hidx := 0 }

/-- Every register at its reset value (10_state.md R33; R80, R150). -/
def clearRegisters (s : State) : State :=
  wipeHeader { s with acc := 0x00, len := 0x00000000, ovf := false }

/-- One payload byte into ACC, counted in LEN and OVF (R82). -/
def absorb (b : Byte) (s : State) : State :=
  { s with acc := s.acc + b, len := lenAfterByte s.len, ovf := ovfAfterByte s.len s.ovf }

/-- The success case of R100: HDR takes `hdr(MAGIC, LEN, ACC)` whole, HVALID is 1, HIDX is 0. -/
def latchHeader (s : State) : State :=
  { s with hdr := hdr Config.magic s.len s.acc, hvalid := true, hidx := 0 }

/-- `HIDX <- HIDX + 1`, at most to 12: it does not wrap (R26, R85, R102). -/
def advanceIndex (s : State) : State :=
  { s with hidx := if h : s.hidx.val < 12 then ⟨s.hidx.val + 1, Nat.succ_lt_succ h⟩ else s.hidx }

end Sys2Proof.Machine
end

