-- ==== Sys2Proof/Machine/Checksum.lean ====
section
/-! DEFINITION. The checksum unit CSU: CLR, ABS, RDC (spec/40_checksum.md). -/

namespace Sys2Proof.Machine

/-- CLR (R80): every register to its reset value; `(OK, 0x00)`. -/
def execClr (s : State) : Host.Outcome State Fault Refusal :=
  .next (respond .ok 0x00 (clearRegisters s))

/-- ABS imm8 (R82): absorbs the byte in every state; `(OK, 0x00)`. HDR, HVALID and HIDX are untouched. -/
def execAbs (imm8 : Byte) (s : State) : Host.Outcome State Fault Refusal :=
  .next (respond .ok 0x00 (absorb (payloadByte imm8) s))

/-- RDC (R84): `(OK, ACC)`; no register is written. -/
def execRdc (s : State) : Host.Outcome State Fault Refusal :=
  .next (respond .ok s.acc s)

end Sys2Proof.Machine
end

