-- ==== Sys2Proof/Machine/Header.lean ====
section
/-! DEFINITION. The header serializer HSR: BLD, EMT (spec/41_header.md). -/

namespace Sys2Proof.Machine

/-- BLD (R100): latches the header, or, when OVF is 1, wipes the header registers and raises `ERR_OVERSIZE`. ACC, LEN
and OVF are never written. -/
def execBld (s : State) : Host.Outcome State Fault Refusal :=
  if s.ovf then .next (raise .oversize (wipeHeader s))
  else .next (respond .ok 0x00 (latchHeader s))

/-- EMT (R102): answers the next header byte and advances HIDX, or, with no byte available, raises `ERR_SEQ` and writes
no register. -/
def execEmt (s : State) : Host.Outcome State Fault Refusal :=
  match availableByte s with
  | some b => .next (respond .ok b (advanceIndex s))
  | none => .next (raise .seq s)

end Sys2Proof.Machine
end

