-- ==== Sys2Proof/Machine/Status.lean ====
section
/-! DEFINITION. The status read: RDS (spec/42_status.md). -/

namespace Sys2Proof.Machine

/-- RDS (R120): `(OK, STATUS)`; no register is written. -/
def execRds (s : State) : Host.Outcome State Fault Refusal :=
  .next (respond .ok (statusByte s) s)

end Sys2Proof.Machine
end

