-- ==== Sys2Proof/Machine/Dispatch.lean ====
section
/-! DEFINITION. The meaning of each command, one arm per constructor (spec/42_status.md R125). -/

namespace Sys2Proof.Machine

def exec (i : Instr) (s : State) : Host.Outcome State Fault Refusal :=
  match i with
  | .clr => Sys2Proof.Machine.execClr s
  | .abs imm8 => Sys2Proof.Machine.execAbs imm8 s
  | .rdc => Sys2Proof.Machine.execRdc s
  | .bld => Sys2Proof.Machine.execBld s
  | .emt => Sys2Proof.Machine.execEmt s
  | .rds => Sys2Proof.Machine.execRds s

end Sys2Proof.Machine
end

