-- ==== Sys2Proof/Machine/Port.lean ====
section
/-! DEFINITION. The port of spec/30_encoding.md R66: what a rising edge presents, which of reset, command and idle wins,
and what FRM does at an edge that carries no legal command. -/

namespace Sys2Proof.Machine

/-- An edge that presents the command word `w`. -/
def commandEdge (w : CmdWord) : PortIn := ⟨false, true, w⟩

/-- An edge at which the host drives nothing (R124). -/
def idleEdge : PortIn := ⟨false, false, 0⟩

/-- R66, R135, R150: reset wins over any command presented at the same edge; `cmd` is ignored when `cmd_valid` is 0. -/
def PortIn.event (p : PortIn) : Event :=
  if p.rst then .reset else if p.cmdValid then .command p.cmd else .idle

/-- What the next rising edge asks. Past the end of `edges` the host drives nothing (R124, R164; assumption log 2). -/
def nextEvent (s : State) : Event :=
  match s.edges with
  | [] => .idle
  | p :: _ => p.event

/-- The next edge is behind: its input signals are gone. -/
def passEdge (s : State) : State := { s with edges := s.edges.tail }

/-- A reset edge (R150): every register takes its reset value and `rsp_valid` is 0. The word on `rsp` is held, because
only a command replaces it (R65; DEDUCED, assumption log 4). -/
def takeReset (s : State) : State := { clearRegisters s with rspValid := false }

/-- An idle edge (R124): no register changes and no response is produced. The word on `rsp` is held (R65; DEDUCED,
assumption log 4). -/
def takeIdle (s : State) : State := { s with rspValid := false }

/-- An illegal word (R122): `ERR_ILLEGAL` in every state, no register written. -/
def takeIllegal (s : State) : State := raise .illegal s

/-- `s` with the word `w` presented at the next edge, before every edge already to come; no command is presented where
there is no word. -/
def presentWord (w : Option CmdWord) (s : State) : State :=
  match w with
  | some word => { s with edges := commandEdge word :: s.edges }
  | none => { s with edges := idleEdge :: s.edges }

end Sys2Proof.Machine
end

