-- ==== Sys2Proof/Machine/Step.lean ====
section
/-! DEFINITION. One step: one rising edge of `clk` (spec/30_encoding.md R66, spec/42_status.md R125). -/

namespace Sys2Proof.Machine

/-- R66: reset, or the command presented, or nothing. The word is decoded before the state is looked at (R135). -/
def step (s : State) : Host.Outcome State Fault Refusal :=
  match nextEvent s with
  | .reset => .next (takeReset (passEdge s))
  | .idle => .next (takeIdle (passEdge s))
  | .command w =>
    match decode w with
    | .ok i => exec i (passEdge s)
    | .error _ => .next (takeIllegal (passEdge s))

/-- `s` with the table word `w` presented on the command port at the next edge, ahead of whatever was to come, so that
the very next step runs it (assumption log 8). -/
def State.withFetchWord (s : State) (nbits w : Nat) : State := presentWord (tableWord nbits w) s

end Sys2Proof.Machine
end

