-- ==== Sys2Proof/Machine/Assembler.lean ====
section
/-! DEFINITION. The assembler notation of spec/30_encoding.md: reading a line (R72), assembling it (R72, R74, R75) and
listing a word (R73, R74). Text is a list of characters. What R72 leaves open of a line's form is assumption log 13. -/

namespace Sys2Proof.Machine

/-- Why a line yields no word. -/
inductive AsmError where
  /-- The line does not have the form of R72, R74 or R75. -/
  | badForm
  /-- No mnemonic of R61 and no directive or pseudo-instruction of R74, R75. -/
  | unknownMnemonic
  /-- An operand on a command that takes none, or ABS without one (R72). -/
  | operandCount
  /-- An ABS operand or a payload byte outside 0 to 255 (R72). -/
  | operandRange
  /-- A `.word` above `0x7FF` (R74). -/
  | wordRange
deriving DecidableEq, Repr

/-! Assembling a line. -/

/-- R75: the commands of `CHECKSUM bs`. -/
def checksumProgram (bs : List Byte) : List Instr := [.clr] ++ bs.map .abs ++ [.rdc]

/-- R75: the commands of `BUILDHEADER bs`. -/
def buildHeaderProgram (bs : List Byte) : List Instr :=
  [.clr] ++ bs.map .abs ++ [.bld] ++ List.replicate 12 .emt

/-- A literal as a byte, where it is in 0 to 255 (R72). -/
def byteOperand (n : Nat) : Except AsmError Byte :=
  if n < 256 then .ok (BitVec.ofNat 8 n) else .error .operandRange

/-- The operands of a pseudo-instruction as bytes (R75). -/
def byteOperands : List Nat → Except AsmError (List Byte)
  | [] => .ok []
  | n :: rest => do
    let b ← byteOperand n
    let bs ← byteOperands rest
    return b :: bs

/-- The command a mnemonic and its written operand stand for (R72). -/
def commandOf : Mnemonic → Option Nat → Except AsmError Instr
  | .abs, some n => (byteOperand n).map .abs
  | .abs, none => .error .operandCount
  | .clr, none => .ok .clr
  | .rdc, none => .ok .rdc
  | .bld, none => .ok .bld
  | .emt, none => .ok .emt
  | .rds, none => .ok .rds
  | _, some _ => .error .operandCount

/-- The words a line produces (R72, R74, R75); `x0` produces none. -/
def assemble : AsmLine → Except AsmError (List CmdWord)
  | .blank => .ok []
  | .command m operand times => (commandOf m operand).map fun i => List.replicate times (encode i)
  | .word value => if value < 2 ^ 11 then .ok [BitVec.ofNat 11 value] else .error .wordRange
  | .checksum payload => (byteOperands payload).map fun bs => (checksumProgram bs).map encode
  | .buildHeader payload => (byteOperands payload).map fun bs => (buildHeaderProgram bs).map encode

/-! Reading a line. -/

/-- A line without its comment, which runs from `;` to the end (R72), and without the spaces before it. -/
def withoutComment (line : List Char) : List Char :=
  ((line.takeWhile (· ≠ ';')).reverse.dropWhile (· = ' ')).reverse

/-- A line's words, separated by one space each (R72). -/
def splitSpaces : List Char → List (List Char)
  | [] => [[]]
  | c :: rest =>
    if c = ' ' then [] :: splitSpaces rest
    else
      match splitSpaces rest with
      | [] => [[c]]
      | word :: words => (c :: word) :: words

/-- The value of a digit, hexadecimal in either case. -/
def digitValue (c : Char) : Option Nat :=
  if 48 ≤ c.toNat ∧ c.toNat ≤ 57 then some (c.toNat - 48)
  else if 65 ≤ c.toNat ∧ c.toNat ≤ 70 then some (c.toNat - 55)
  else if 97 ≤ c.toNat ∧ c.toNat ≤ 102 then some (c.toNat - 87)
  else none

/-- The digits of a number in `base`, most significant first, after `value`. -/
def readDigits (base value : Nat) : List Char → Option Nat
  | [] => some value
  | c :: rest =>
    match digitValue c with
    | some d => if d < base then readDigits base (base * value + d) rest else none
    | none => none

/-- A number in `base` of at least one digit. -/
def readNumber (base : Nat) (digits : List Char) : Except AsmError Nat :=
  if digits.isEmpty then .error .badForm
  else match readDigits base 0 digits with
    | some n => .ok n
    | none => .error .badForm

/-- A literal: hexadecimal after `0x`, else decimal (R72). -/
def readLiteral : List Char → Except AsmError Nat
  | '0' :: 'x' :: digits => readNumber 16 digits
  | digits => readNumber 10 digits

/-- What stands after a mnemonic: an operand, a repeat count `xN`, both in that order, or neither (R72). -/
def readTail : List (List Char) → Except AsmError (Option Nat × Nat)
  | [] => .ok (none, 1)
  | [('x' :: digits)] => (readNumber 10 digits).map fun n => (none, n)
  | [operand] => (readLiteral operand).map fun n => (some n, 1)
  | [operand, 'x' :: digits] => do
    let n ← readLiteral operand
    let times ← readNumber 10 digits
    return (some n, times)
  | _ => .error .badForm

/-- The operands of a pseudo-instruction: literals, a comma after each but the last (R75). -/
def readPayload : List (List Char) → Except AsmError (List Nat)
  | [] => .ok []
  | [last] => (readLiteral last).map fun n => [n]
  | word :: rest => do
    let n ← if word.getLast? = some ',' then readLiteral word.dropLast else .error .badForm
    let ns ← readPayload rest
    return n :: ns

/-- The mnemonics of R61, in capitals (R72). -/
def Mnemonic.text : Mnemonic → List Char
  | .clr => ['C', 'L', 'R']
  | .abs => ['A', 'B', 'S']
  | .rdc => ['R', 'D', 'C']
  | .bld => ['B', 'L', 'D']
  | .emt => ['E', 'M', 'T']
  | .rds => ['R', 'D', 'S']

/-- The mnemonic a word spells. -/
def readMnemonic (word : List Char) : Except AsmError Mnemonic :=
  match [Mnemonic.clr, .abs, .rdc, .bld, .emt, .rds].find? (fun m => Mnemonic.text m = word) with
  | some m => .ok m
  | none => .error .unknownMnemonic

/-- The directive of R74. -/
def wordDirective : List Char := ['.', 'w', 'o', 'r', 'd']

/-- The pseudo-instructions of R75. -/
def checksumName : List Char := ['C', 'H', 'E', 'C', 'K', 'S', 'U', 'M']
def buildHeaderName : List Char := ['B', 'U', 'I', 'L', 'D', 'H', 'E', 'A', 'D', 'E', 'R']

/-- The operand of `.word`: one hexadecimal literal (R74). -/
def readWordOperand : List (List Char) → Except AsmError Nat
  | ['0' :: 'x' :: digits] => readNumber 16 digits
  | _ => .error .badForm

/-- A line of text as an assembler line (R72, R74, R75). -/
def readLine (line : List Char) : Except AsmError AsmLine :=
  match splitSpaces (withoutComment line) with
  | [] | [[]] => .ok .blank
  | head :: tail =>
    if head = wordDirective then (readWordOperand tail).map .word
    else if head = checksumName then (readPayload tail).map .checksum
    else if head = buildHeaderName then (readPayload tail).map .buildHeader
    else do
      let m ← readMnemonic head
      let rest ← readTail tail
      return .command m rest.1 rest.2

/-- The words a line of text produces. -/
def assembleText (line : List Char) : Except AsmError (List CmdWord) := (readLine line).bind assemble

/-! Listing a word. -/

/-- A hexadecimal digit in capitals. -/
def hexDigit (n : Nat) : Char := Char.ofNat (if n % 16 < 10 then 48 + n % 16 else 55 + n % 16)

/-- `digits` hexadecimal digits of `n`, most significant first. -/
def hexText (digits n : Nat) : List Char :=
  match digits with
  | 0 => []
  | k + 1 => hexText k (n / 16) ++ [hexDigit n]

/-- The assembly text of a command (R72). -/
def instrText (i : Instr) : List Char :=
  match i with
  | .abs imm8 => Mnemonic.text i.mnemonic ++ [' ', '0', 'x'] ++ hexText 2 imm8.toNat
  | .clr | .rdc | .bld | .emt | .rds => Mnemonic.text i.mnemonic

/-- The assembly text of a word: a legal word by its command, an illegal one by `.word` (R74). -/
def wordText (w : CmdWord) : List Char :=
  match decode w with
  | .ok i => instrText i
  | .error _ => wordDirective ++ [' ', '0', 'x'] ++ hexText 3 w.toNat

/-- R73: the word in three hexadecimal digits, two spaces, the assembly text. -/
def listingLine (w : CmdWord) : List Char := hexText 3 w.toNat ++ [' ', ' '] ++ wordText w

end Sys2Proof.Machine
end

