-- ==== Sys2Proof/Safety.lean ====
section
/-! DEFINITION. The terms claims are stated in: the invariants of spec/10_state.md R32, runs and their responses, the
payload bytes a run absorbs, and the host's duty on the payload. -/

namespace Sys2Proof.Machine

/-- The next state, where there is one. -/
def nextState? : Host.Outcome State Fault Refusal → Option State
  | .next t => some t
  | .fault _ => none
  | .refused _ => none

/-- The five invariants of R32. The first holds of every state by the type of HIDX (assumption log 5). -/
structure RegisterInvariants (s : State) : Prop where
  /-- R32.1. -/
  indexRange : s.hidx.val ≤ 12
  /-- R32.2: with no header built, the index is 0 and the buffer is zero. -/
  unbuilt : s.hvalid = false → s.hidx = 0 ∧ s.hdr = Vector.replicate 12 0x00
  /-- R32.3: a built header starts with `le32(MAGIC)` and ends with three zero bytes. -/
  fixedBytes : s.hvalid = true →
    s.hdr[0] = 0x42 ∧ s.hdr[1] = 0x4F ∧ s.hdr[2] = 0x4F ∧ s.hdr[3] = 0x54 ∧
    s.hdr[9] = 0x00 ∧ s.hdr[10] = 0x00 ∧ s.hdr[11] = 0x00
  /-- R32.4: OVF only at `LEN_MAX`. -/
  saturated : s.ovf = true → s.len = Config.lenMax
  /-- R32.5: a built header is `hdr(MAGIC, l, c)` for some length and checksum. -/
  built : s.hvalid = true → ∃ l c, s.hdr = hdr Config.magic l c

/-- The six registers of R20 agree. -/
structure SameRegisters (s t : State) : Prop where
  acc : s.acc = t.acc
  len : s.len = t.len
  ovf : s.ovf = t.ovf
  hdr : s.hdr = t.hdr
  hvalid : s.hvalid = t.hvalid
  hidx : s.hidx = t.hidx

/-- The state after `k` edges, where every one of them has a next state. -/
def runSteps : Nat → State → Option State
  | 0, s => some s
  | k + 1, s => (nextState? (step s)).bind (runSteps k)

/-- The responses of `k` edges, in order: one for each edge after which `rsp_valid` is 1 (R65, R66). -/
def responses : Nat → State → List Response
  | 0, _ => []
  | k + 1, s =>
    match nextState? (step s) with
    | some t => (if t.rspValid then [t.rsp] else []) ++ responses k t
    | none => []

/-- A run goes on: `k` edges from `s` have a next state each, for every `k`. -/
def NeverStops (s : State) : Prop := ∀ k, (runSteps k s).isSome

/-- The edges that present a list of commands, one after the other. -/
def commandEdges (is : List Instr) : List PortIn := is.map fun i => commandEdge (encode i)

/-- What an edge decodes to, where it presents a legal command that is executed. -/
def edgeInstr (p : PortIn) : Option Instr :=
  match p.event with
  | .command w => (decode w).toOption
  | .reset => none
  | .idle => none

/-- The payload byte an edge absorbs, where it executes ABS (R83: nothing else brings a payload byte in). -/
def absorbedByte (p : PortIn) : Option Byte :=
  match edgeInstr p with
  | some (.abs imm8) => some (payloadByte imm8)
  | some .clr | some .rdc | some .bld | some .emt | some .rds | none => none

/-- The payload bytes that a list of edges absorbs, in order (R40: the k-th ABS carries byte k). -/
def absorbedBytes (es : List PortIn) : List Byte := es.filterMap absorbedByte

/-- How many EMT commands a list of edges executes. -/
def emitCount (es : List PortIn) : Nat := es.countP fun p => edgeInstr p == some .emt

/-- The edge neither resets nor clears: the payload goes on (R81). -/
def keepsPayload (p : PortIn) : Bool := p.event != .reset && edgeInstr p != some .clr

/-- The edge leaves a latched header in place: no reset, no CLR, no BLD (R103). -/
def keepsHeader (p : PortIn) : Bool := keepsPayload p && edgeInstr p != some .bld

/-- R55, R159, D31: the host's duty, a premise and no behaviour of FRM: the bytes transmitted after the header are, in
number and in value, the bytes absorbed. -/
def PayloadFidelity (absorbed transmitted : List Byte) : Prop := transmitted = absorbed

end Sys2Proof.Machine
end

