-- ==== Sys2Proof/Certificates/Slice0/Obligations.lean ====
section
/-! DEFINITION. The statements for the provers. Each docstring names the rule of spec/ it formalises. -/

open Sys2Proof Sys2Proof.Machine

/-! ## Encoding -/

/-- 30_encoding.md R64: `decode`, line by line, over all 2048 words read as numbers (`op` = the number over 256,
`imm8` = the rest); `encode`, command by command; and `decode(encode(c)) = c` for each command. -/
def Obligations.DecodeAndEncodeAgreeOnEveryCommand : Prop :=
  (∀ w : CmdWord,
    if w.toNat / 256 = 1 then decode w = .ok (.abs (BitVec.ofNat 8 (w.toNat % 256)))
    else if w.toNat % 256 ≠ 0 then ∃ e, decode w = .error e
    else if w.toNat / 256 = 0 then decode w = .ok .clr
    else if w.toNat / 256 = 2 then decode w = .ok .rdc
    else if w.toNat / 256 = 3 then decode w = .ok .bld
    else if w.toNat / 256 = 4 then decode w = .ok .emt
    else if w.toNat / 256 = 5 then decode w = .ok .rds
    else ∃ e, decode w = .error e) ∧
  encode .clr = 0x000 ∧ (∀ b, (encode (.abs b)).toNat = 0x100 + b.toNat) ∧ encode .rdc = 0x200 ∧
  encode .bld = 0x300 ∧ encode .emt = 0x400 ∧ encode .rds = 0x500 ∧
  ∀ i, decode (encode i) = .ok i

/-- 30_encoding.md R63: the legal words are exactly those that decode to a command, 261 of 2048 (the illegal ones
are 512 with `op` 6 or 7 and 1275 others), and each is the one word of its command. -/
def Obligations.LegalWordsAreExactlyTheEncodings : Prop :=
  (∀ w, legalWord w = true ↔ ∃ i, decode w = .ok i) ∧
  (∀ w i, decode w = .ok i → encode i = w) ∧
  (∀ w v i, decode w = .ok i → decode v = .ok i → w = v) ∧
  (List.range 2048).countP (fun n => legalWord (BitVec.ofNat 11 n)) = 261 ∧
  (List.range 2048).countP (fun n => !legalWord (BitVec.ofNat 11 n) && 6 ≤ n / 256) = 512 ∧
  (List.range 2048).countP (fun n => !legalWord (BitVec.ofNat 11 n) && n / 256 < 6) = 1275

/-- 30_encoding.md R76: a word selects at most one row of the opcode table; it selects the row of the command it
decodes to, and none where it is illegal. -/
def Obligations.OpcodeTableSelectsTheDecodedRow : Prop :=
  (∀ w r q, r ∈ opcodeTable → q ∈ opcodeTable → r.selectedBy w = true → q.selectedBy w = true → r = q) ∧
  (∀ w i, decode w = .ok i → ∃ r ∈ opcodeTable, r.selectedBy w = true ∧ r.mnemonic = i.mnemonic) ∧
  (∀ w e, decode w = .error e → ∀ r ∈ opcodeTable, r.selectedBy w = false)

/-- 30_encoding.md R61 and 95_test_vectors.md V4: words written out bit by bit from the encoding, `op[10:8]` then
`imm8[7:0]`. Of the two illegal words the spec says only that they are ILLEGAL (R64, V4); the names
`nonzeroImmediate` and `reservedOpcode` in the last two clauses are the MODEL's, DESIGN CHOICE (assumption log 12). -/
def Obligations.WrittenWordsDecodeToTheirCommands : Prop :=
  decode 0b00000000000#11 = .ok .clr ∧ decode 0b00101111111#11 = .ok (.abs 0x7F) ∧
  decode 0b00110000000#11 = .ok (.abs 0x80) ∧ decode 0b01000000000#11 = .ok .rdc ∧
  decode 0b01100000000#11 = .ok .bld ∧ decode 0b10000000000#11 = .ok .emt ∧
  decode 0b10100000000#11 = .ok .rds ∧ decode 0b10000001100#11 = .error (.nonzeroImmediate 4 0x0C) ∧
  decode 0b11000000000#11 = .error (.reservedOpcode 6)

/-! ## The pure functions -/

/-- 00_scope.md R11: byte `k` of `le32(w)` is bits `8k+7 .. 8k` of `w`; `unle32` is its inverse, both ways; the
source's two examples. -/
def Obligations.Unle32InvertsLe32 : Prop :=
  (∀ w : Word32, ∀ k : Fin 4, ((le32 w)[k]).toNat = w.toNat / 256 ^ k.val % 256) ∧
  (∀ v : Vector Byte 4, unle32 v = v[0].toNat + 256 * v[1].toNat + 65536 * v[2].toNat + 16777216 * v[3].toNat) ∧
  (∀ w : Word32, unle32 (le32 w) = w.toNat) ∧
  (∀ v : Vector Byte 4, le32 (BitVec.ofNat 32 (unle32 v)) = v) ∧
  le32 0x544F4F42 = #v[0x42, 0x4F, 0x4F, 0x54] ∧ le32 0x00000400 = #v[0x00, 0x04, 0x00, 0x00]

/-- 00_scope.md R12: `hdr(m, l, c) = le32(m) ++ le32(l) ++ le32(zext_32(c))`, and the table of its twelve bytes. -/
def Obligations.HdrConcatenatesTheThreeFields : Prop :=
  ∀ (m l : Word32) (c : Byte),
    (∃ z : Word32, z.toNat = c.toNat ∧
      (hdr m l c).toList = (le32 m).toList ++ (le32 l).toList ++ (le32 z).toList) ∧
    (∀ k : Fin 4, ((hdr m l c)[k.val]).toNat = m.toNat / 256 ^ k.val % 256) ∧
    (∀ k : Fin 4, ((hdr m l c)[4 + k.val]).toNat = l.toNat / 256 ^ k.val % 256) ∧
    (hdr m l c)[8] = c ∧ (hdr m l c)[9] = 0x00 ∧ (hdr m l c)[10] = 0x00 ∧ (hdr m l c)[11] = 0x00

/-- 00_scope.md R14: the laws the source states as testable properties, (a) to (e), and the streaming law. -/
def Obligations.PureFunctionsMeetTheSourceLaws : Prop :=
  (∀ bs, (sum8 bs).toNat ≤ 255) ∧
  (∀ bs cs, (sum8 (bs ++ cs)).toNat = ((sum8 bs).toNat + (sum8 cs).toNat) % 256) ∧
  (∀ bs : List Byte, bs.length ≤ 0xFFFFFFFF →
    ∃ h, buildHeader bs = .ok h ∧ h.toList.length = 12 ∧
      decodeHeader h = ⟨0x544F4F42, bs.length, (sum8 bs).toNat⟩) ∧
  (∀ bs : List Byte, 0xFFFFFFFF < bs.length → buildHeader bs = .error .oversizedPayload) ∧
  (∀ bs b, (sum8 (bs ++ [b])).toNat = ((sum8 bs).toNat + b.toNat) % 256)

/-- 20_memory.md R44, 40_checksum.md R88: the checksum does not see the order of the bytes, nor zero bytes among
them. -/
def Obligations.ChecksumIgnoresOrderAndZeroBytes : Prop :=
  (∀ bs cs : List Byte, bs.Perm cs → sum8 bs = sum8 cs) ∧
  (∀ bs cs : List Byte, sum8 (bs ++ 0x00 :: cs) = sum8 (bs ++ cs))

/-- 30_encoding.md R71 and the host's duty of 20_memory.md R55: where the host transmits what it absorbed, the
twelve header bytes are followed by exactly as many payload bytes as the length field says, with the checksum
the header carries. -/
def Obligations.FaithfulFrameMatchesItsHeader : Prop :=
  ∀ absorbed transmitted : List Byte, PayloadFidelity absorbed transmitted → absorbed.length ≤ 0xFFFFFFFF →
    ∃ f h, frame absorbed = .ok f ∧ buildHeader absorbed = .ok h ∧ f.length = 12 + transmitted.length ∧
      f.take 12 = h.toList ∧ f.drop 12 = transmitted ∧
      (decodeHeader h).length = transmitted.length ∧ (decodeHeader h).checksum32 = (sum8 transmitted).toNat

/-- 41_header.md R106: the two instances the source works out. -/
def Obligations.SourceInstancesBuildTheirHeaders : Prop :=
  buildHeader (List.replicate 1024 0x01) =
    .ok #v[0x42, 0x4F, 0x4F, 0x54, 0x00, 0x04, 0x00, 0x00, 0x00, 0x00, 0x00, 0x00] ∧
  buildHeader [] = .ok #v[0x42, 0x4F, 0x4F, 0x54, 0x00, 0x00, 0x00, 0x00, 0x00, 0x00, 0x00, 0x00]

/-! ## The commands -/

/-- 40_checksum.md R80: CLR completes in every state with every register zero and `(OK, 0x00)`; its word; and CLR is
the only command that clears OVF. The whole next state is given, so everything else is unchanged. -/
def Obligations.ClrClearsEveryRegister : Prop :=
  (encode .clr = 0x000 ∧ decode 0x000 = .ok .clr) ∧
  (∀ s, exec .clr s = .next { s with
      acc := 0x00, len := 0x00000000, ovf := false, hdr := Vector.replicate 12 0x00, hvalid := false, hidx := 0,
      rspValid := true, rsp := ⟨.ok, 0x00⟩ }) ∧
  (∀ i s t, exec i s = .next t → s.ovf = true → t.ovf = false → i = .clr)

/-- 10_state.md R34: the state after CLR is the reset state, register by register, whatever the state before. -/
def Obligations.ClrLeavesTheResetRegisters : Prop :=
  ∀ s, ∃ t, exec .clr s = .next t ∧ SameRegisters t State.reset

/-- 40_checksum.md R82 and R89: ABS completes in every state; ACC adds modulo 256, LEN counts and saturates, OVF is
set when LEN was at its maximum; `(OK, 0x00)`; its word. HDR, HVALID, HIDX and the edges to come are unchanged. -/
def Obligations.AbsAddsAndCountsOneByte : Prop :=
  ∀ b : Byte, (encode (.abs b)).toNat = 0x100 + b.toNat ∧ decode (BitVec.ofNat 11 (0x100 + b.toNat)) = .ok (.abs b) ∧
    ∀ s, ∃ t, exec (.abs b) s = .next t ∧
      t.acc.toNat = (s.acc.toNat + b.toNat) % 256 ∧
      t.len.toNat = min (s.len.toNat + 1) 0xFFFFFFFF ∧
      t.ovf = (s.ovf || decide (s.len.toNat = 0xFFFFFFFF)) ∧
      t.hdr = s.hdr ∧ t.hvalid = s.hvalid ∧ t.hidx = s.hidx ∧
      t.rspValid = true ∧ t.rsp = ⟨.ok, 0x00⟩ ∧ t.edges = s.edges

/-- 40_checksum.md R84: RDC completes in every state with `(OK, ACC)` and writes no register; its word. -/
def Obligations.RdcAnswersTheAccumulator : Prop :=
  encode .rdc = 0x200 ∧ decode 0x200 = .ok .rdc ∧
  ∀ s, exec .rdc s = .next { s with rspValid := true, rsp := ⟨.ok, s.acc⟩ }

/-- 41_header.md R100: BLD with OVF 0 completes, latching the twelve bytes; with OVF 1 it wipes the header registers
and answers `ERR_OVERSIZE`; no other command answers `ERR_OVERSIZE`; its word. The whole next state is given in
both cases, so ACC, LEN, OVF and the edges to come are unchanged. -/
def Obligations.BldLatchesTheHeaderOrFails : Prop :=
  encode .bld = 0x300 ∧ decode 0x300 = .ok .bld ∧
  (∀ s, s.ovf = false → ∃ h : Vector Byte 12,
    exec .bld s = .next { s with hdr := h, hvalid := true, hidx := 0, rspValid := true, rsp := ⟨.ok, 0x00⟩ } ∧
    h[0] = 0x42 ∧ h[1] = 0x4F ∧ h[2] = 0x4F ∧ h[3] = 0x54 ∧
    h[4].toNat = s.len.toNat % 256 ∧ h[5].toNat = s.len.toNat / 256 % 256 ∧
    h[6].toNat = s.len.toNat / 65536 % 256 ∧ h[7].toNat = s.len.toNat / 16777216 ∧
    h[8] = s.acc ∧ h[9] = 0x00 ∧ h[10] = 0x00 ∧ h[11] = 0x00) ∧
  (∀ s, s.ovf = true → exec .bld s = .next { s with
    hdr := Vector.replicate 12 0x00, hvalid := false, hidx := 0,
    rspValid := true, rsp := ⟨.err .oversize, 0x00⟩ }) ∧
  (∀ i s t, exec i s = .next t → t.rsp.code = .err .oversize → i = .bld)

/-- 41_header.md R102: EMT with a header built and not exhausted completes with `(OK, HDR[HIDX])` and HIDX one
higher; with `HVALID` 0 or `HIDX` 12 it answers `ERR_SEQ` and writes no register; its word. The whole next state
is given in both cases. -/
def Obligations.EmtAnswersTheNextHeaderByteOrFails : Prop :=
  encode .emt = 0x400 ∧ decode 0x400 = .ok .emt ∧
  (∀ s, s.hvalid = true → ∀ h : s.hidx.val < 12, ∃ k : HdrIndex, k.val = s.hidx.val + 1 ∧
    exec .emt s = .next { s with hidx := k, rspValid := true, rsp := ⟨.ok, s.hdr[s.hidx.val]⟩ }) ∧
  (∀ s, s.hvalid = false ∨ s.hidx = 12 →
    exec .emt s = .next { s with rspValid := true, rsp := ⟨.err .seq, 0x00⟩ })

/-- 42_status.md R120: RDS completes in every state with `(OK, (HIDX << 2) | (HVALID << 1) | OVF)` and writes no
register; bits 7:6 are 0; in a state that meets the invariants the byte is one of 28; its word. -/
def Obligations.RdsAnswersTheStatusByte : Prop :=
  encode .rds = 0x500 ∧ decode 0x500 = .ok .rds ∧
  ∀ s, ∃ d : Byte, exec .rds s = .next { s with rspValid := true, rsp := ⟨.ok, d⟩ } ∧
    d.toNat = 4 * s.hidx.val + 2 * s.hvalid.toNat + s.ovf.toNat ∧
    d[7] = false ∧ d[6] = false ∧ d[1] = s.hvalid ∧ d[0] = s.ovf ∧
    (RegisterInvariants s →
      d.toNat ∈ [0x00, 0x01] ++ (List.range 13).map (fun j => 0x02 + 4 * j) ++
      (List.range 13).map (fun j => 0x03 + 4 * j))

/-- 20_memory.md R48: CLR, BLD, RDC and RDS issued twice in a row: the second changes nothing more and answers the
same. -/
def Obligations.ClrBldRdcRdsAreIdempotent : Prop :=
  ∀ i, i = .clr ∨ i = .bld ∨ i = .rdc ∨ i = .rds → ∀ s t, exec i s = .next t → exec i t = .next t

/-- 10_state.md R28: which event may change which register. A register that differs after a step was written by one
of the events the access matrix lists for it, and HIDX moves by one (EMT) or to 0 (reset, CLR, BLD) only. -/
def Obligations.OnlyTheListedEventsChangeARegister : Prop :=
  ∀ s t, step s = .next t →
    let isReset := nextEvent s = .reset
    let runs := fun i : Instr => ∃ w, nextEvent s = .command w ∧ decode w = .ok i
    (t.acc ≠ s.acc → isReset ∨ runs .clr ∨ ∃ b, runs (.abs b)) ∧
    (t.len ≠ s.len → isReset ∨ runs .clr ∨ ∃ b, runs (.abs b)) ∧
    (t.ovf ≠ s.ovf → isReset ∨ runs .clr ∨ ∃ b, runs (.abs b) ∧ t.ovf = true) ∧
    (t.hdr ≠ s.hdr → isReset ∨ runs .clr ∨ runs .bld) ∧
    (t.hvalid ≠ s.hvalid → isReset ∨ runs .clr ∨ runs .bld) ∧
    (t.hidx ≠ s.hidx → ((isReset ∨ runs .clr ∨ runs .bld) ∧ t.hidx = 0) ∨
      (runs .emt ∧ t.hidx.val = s.hidx.val + 1))

/-! ## Errors and responses -/

/-- 60_exceptions.md R130: the codes, and exactly when each error is answered: over every step from every state,
with data `0x00`; CLR, ABS, RDC and RDS never. -/
def Obligations.ErrorsAreAnsweredExactlyWhenTheRulesSay : Prop :=
  (Code.ok.bits = 0 ∧ (Code.err .oversize).bits = 1 ∧ (Code.err .seq).bits = 2 ∧ (Code.err .illegal).bits = 3) ∧
  ∀ s t w, nextEvent s = .command w → step s = .next t →
    (t.rsp.code = .err .oversize ↔ decode w = .ok .bld ∧ s.ovf = true) ∧
    (t.rsp.code = .err .seq ↔ decode w = .ok .emt ∧ (s.hvalid = false ∨ s.hidx = 12)) ∧
    (t.rsp.code = .err .illegal ↔ ∃ e, decode w = .error e) ∧
    (t.rsp.code ≠ .ok → t.rsp.data = 0x00) ∧
    (∀ i, decode w = .ok i → (i = .clr ∨ (∃ b, i = .abs b) ∨ i = .rdc ∨ i = .rds) → t.rsp.code = .ok)

/-- 60_exceptions.md R131: what an error response changes. After `ERR_SEQ` and `ERR_ILLEGAL` the registers are as
before; after `ERR_OVERSIZE` the header registers are zero and ACC, LEN, OVF as before; and FRM takes the next
step at once. -/
def Obligations.ErrorResponsesChangeOnlyWhatTheyList : Prop :=
  ∀ s t w, nextEvent s = .command w → step s = .next t →
    (t.rsp.code = .err .seq ∨ t.rsp.code = .err .illegal → SameRegisters t s) ∧
    (t.rsp.code = .err .oversize →
      t.hdr = Vector.replicate 12 0x00 ∧ t.hvalid = false ∧ t.hidx = 0 ∧
      t.acc = s.acc ∧ t.len = s.len ∧ t.ovf = s.ovf) ∧
    ∃ u, step t = .next u

/-- 30_encoding.md R65: every command, legal or not, gives one response, and only a command does; the response word
is `code` in bits 9:8 and `data` in bits 7:0; over every step that runs a command word, CLR, ABS, BLD and every error
response, that to an illegal word among them, carry data `0x00`. -/
def Obligations.EveryCommandAnswersOneResponse : Prop :=
  (∀ r : Response, r.word.toNat = 256 * r.code.bits.toNat + r.data.toNat) ∧
  (∀ s t, step s = .next t → (t.rspValid = true ↔ ∃ w, nextEvent s = .command w)) ∧
  (∀ s t w, nextEvent s = .command w → step s = .next t →
    (decode w = .ok .clr ∨ (∃ b, decode w = .ok (.abs b)) ∨ decode w = .ok .bld ∨
      (∃ e, decode w = .error e) ∨ t.rsp.code ≠ .ok) → t.rsp.data = 0x00)

/-- 30_encoding.md R65 ("The response port holds it until the next command replaces it"), read for reset edges too:
the MODEL's reading, DEDUCED (assumption log 4). At an edge that runs no command `rsp` is as before. -/
def Obligations.ResponseIsHeldUntilTheNextCommand : Prop :=
  ∀ s t, (∀ w, nextEvent s ≠ .command w) → step s = .next t → t.rsp = s.rsp

/-! ## Steps -/

/-- 30_encoding.md R66, 42_status.md R125: where the next edge presents a word that decodes to `i`, with `rst` 0,
the step is `exec i`, the edge being past. -/
def Obligations.StepRunsTheDecodedCommand : Prop :=
  ∀ (s : State) (p : PortIn) (es : List PortIn) (i : Instr),
    s.edges = p :: es → p.rst = false → p.cmdValid = true → decode p.cmd = .ok i →
    step s = exec i { s with edges := es }

/-- The word placed by `withFetchWord` is the one the very next step runs, in the state that was there: the MODEL's
way of presenting a command (assumption log 8), with the numbering of spec/opcode_table.json. -/
def Obligations.WithFetchWordRunsTheTableWord : Prop :=
  ∀ (s : State) (nbits w : Nat) (i : Instr), decodeTableWord nbits w = some i → step (s.withFetchWord nbits w) = exec i s

/-- 42_status.md R122: the illegal words are exactly those listed; one answers `ERR_ILLEGAL` with data `0x00` in
every state and writes no register. The whole next state is given. -/
def Obligations.IllegalWordAnswersErrIllegal : Prop :=
  (∀ w : CmdWord, (∃ e, decode w = .error e) ↔
    0x600 ≤ w.toNat ∨ (0x001 ≤ w.toNat ∧ w.toNat ≤ 0x0FF) ∨ (0x201 ≤ w.toNat ∧ w.toNat ≤ 0x2FF) ∨
      (0x301 ≤ w.toNat ∧ w.toNat ≤ 0x3FF) ∨ (0x401 ≤ w.toNat ∧ w.toNat ≤ 0x4FF) ∨
      (0x501 ≤ w.toNat ∧ w.toNat ≤ 0x5FF)) ∧
  (∀ (s : State) (p : PortIn) (es : List PortIn) (e : DecodeError),
    s.edges = p :: es → p.rst = false → p.cmdValid = true → decode p.cmd = .error e →
    step s = .next { s with edges := es, rspValid := true, rsp := ⟨.err .illegal, 0x00⟩ })

/-- 70_reset_and_hazards.md R150: at an edge with `rst` 1 every register takes its reset value, whatever the state
and whatever is on `cmd` and `cmd_valid`, and no response is given. -/
def Obligations.ResetEdgeWinsOverAnyCommand : Prop :=
  ∀ (s : State) (p : PortIn) (es : List PortIn), s.edges = p :: es → p.rst = true →
    ∃ t, step s = .next t ∧ SameRegisters t State.reset ∧ t.rspValid = false ∧ t.edges = es

/-- 42_status.md R124: at an edge with no command and no reset no register changes and no response is produced; and
idle edges standing anywhere in a run have no effect on any response. -/
def Obligations.IdleEdgesHaveNoEffect : Prop :=
  (∀ (s : State) (p : PortIn) (es : List PortIn), s.edges = p :: es → p.rst = false → p.cmdValid = false →
    ∃ t, step s = .next t ∧ SameRegisters t s ∧ t.rspValid = false ∧ t.edges = es) ∧
  (∀ (s : State) (es : List PortIn), let busy := es.filter fun p => p.event != .idle
    responses es.length { s with edges := es } = responses busy.length { s with edges := busy })

/-- 70_reset_and_hazards.md R164 ("FRM never halts"), 42_status.md R122 ("the step function is total"): from every
state, reached or not, every run goes on. -/
def Obligations.EveryRunGoesOn : Prop := ∀ s, NeverStops s

/-- 40_checksum.md R91: the responses of a run, and the registers after it, depend on the registers before and the
inputs alone; what the response port held does not matter. -/
def Obligations.ResponsesDependOnRegistersAndInputsAlone : Prop :=
  ∀ (k : Nat) (s t : State), SameRegisters s t → s.edges = t.edges →
    responses k s = responses k t ∧
    ∀ u v, runSteps k s = some u → runSteps k t = some v → SameRegisters u v

/-! ## Invariants -/

/-- 10_state.md R33: after reset every register has the value of R20's table, and STATUS is `0x00`. -/
def Obligations.ResetStateHasTheResetValues : Prop :=
  State.reset.acc = 0x00 ∧ State.reset.len = 0x00000000 ∧ State.reset.ovf = false ∧
  (∀ i : Fin 12, State.reset.hdr[i] = 0x00) ∧ State.reset.hvalid = false ∧ State.reset.hidx = 0 ∧
  statusByte State.reset = 0x00

/-- 10_state.md R32: the invariants hold in the reset state. -/
def Obligations.InvariantsHoldAtReset : Prop := RegisterInvariants State.reset

/-- 10_state.md R32: the invariants hold in the reset state, every step from every state that meets them keeps them,
and so they hold after any run from the reset state, whatever the host drives. -/
def Obligations.EveryStepKeepsTheInvariants : Prop :=
  RegisterInvariants State.reset ∧
  (∀ s t, RegisterInvariants s → step s = .next t → RegisterInvariants t) ∧
  (∀ (es : List PortIn) (k : Nat) (t : State), runSteps k { State.reset with edges := es } = some t → RegisterInvariants t)

/-! ## Runs -/

/-- 40_checksum.md R86, 70_reset_and_hazards.md R155: without a CLR the payload goes on from where the registers
stand: over any edges without reset and CLR, ACC, LEN and OVF continue from their values before. -/
def Obligations.AbsorptionContinuesFromAnyState : Prop :=
  ∀ (s : State) (es : List PortIn), (∀ p ∈ es, keepsPayload p = true) →
    ∃ t, runSteps es.length { s with edges := es } = some t ∧
      t.acc.toNat = (s.acc.toNat + (sum8 (absorbedBytes es)).toNat) % 256 ∧
      t.len.toNat = min (s.len.toNat + (absorbedBytes es).length) 0xFFFFFFFF ∧
      t.ovf = (s.ovf || decide (0xFFFFFFFF < s.len.toNat + (absorbedBytes es).length))

/-- 40_checksum.md R90, the streaming theorem: from the reset state, or any state followed by CLR, over any edges
without reset and CLR (ABS in any number, RDC, RDS, EMT, BLD, illegal words and idle edges among them), ACC is
`sum8` of the bytes absorbed, LEN their number, saturated, OVF whether they are too many; and RDC then answers
that `sum8`. -/
def Obligations.StreamedChecksumIsSum8 : Prop :=
  ∀ es : List PortIn, (∀ p ∈ es, keepsPayload p = true) → ∀ s t : State,
    (SameRegisters s State.reset ∧ runSteps es.length { s with edges := es } = some t ∨
      runSteps (es.length + 1) { s with edges := commandEdge 0x000 :: es } = some t) →
    t.acc = sum8 (absorbedBytes es) ∧
    t.len.toNat = min (absorbedBytes es).length 0xFFFFFFFF ∧
    t.ovf = decide (0xFFFFFFFF < (absorbedBytes es).length) ∧
    ∃ u, exec .rdc t = .next u ∧ u.rsp = ⟨.ok, sum8 (absorbedBytes es)⟩

/-- 41_header.md R103, the emission law: after a successful BLD and any edges without reset, CLR and BLD, of which
`k` execute EMT, HIDX is `k` (at most 12) and the next EMT answers `(OK, HDR[k])` for `k` below 12, HDR being
what that BLD latched, and `(ERR_SEQ, 0x00)` from 12 on. -/
def Obligations.EmissionGivesTheLatchedBytesInOrder : Prop :=
  ∀ s : State, s.ovf = false → ∀ es : List PortIn, (∀ p ∈ es, keepsHeader p = true) →
    ∃ t u v, exec .bld s = .next t ∧ runSteps es.length { t with edges := es } = some u ∧
      exec .emt u = .next v ∧ u.hidx.val = min (emitCount es) 12 ∧
      (∀ h : emitCount es < 12, v.rsp = ⟨.ok, t.hdr[emitCount es]⟩) ∧
      (12 ≤ emitCount es → v.rsp = ⟨.err .seq, 0x00⟩)

/-- 41_header.md R104, the header theorem: CLR (or the reset state), the payload, BLD, and twelve EMTs answer OK
throughout and hand out `buildHeader(bs)`; for a payload that is too long BLD answers `ERR_OVERSIZE` and every
EMT `ERR_SEQ`. -/
def Obligations.CommandSequenceEmitsBuildHeader : Prop :=
  ∀ (bs : List Byte) (s : State),
    let work := commandEdges (bs.map .abs ++ [.bld] ++ List.replicate 12 .emt)
    let answers := fun rs : List Response =>
      (bs.length ≤ 0xFFFFFFFF → ∃ h, buildHeader bs = .ok h ∧
        h = hdr 0x544F4F42 (BitVec.ofNat 32 bs.length) (sum8 bs) ∧
        rs = List.replicate bs.length ⟨.ok, 0x00⟩ ++ ⟨.ok, 0x00⟩ :: h.toList.map (⟨.ok, ·⟩)) ∧
      (0xFFFFFFFF < bs.length →
        rs = List.replicate bs.length ⟨.ok, 0x00⟩ ++ ⟨.err .oversize, 0x00⟩ :: List.replicate 12 ⟨.err .seq, 0x00⟩)
    (SameRegisters s State.reset → answers (responses work.length { s with edges := work })) ∧
    ∃ rs, responses (work.length + 1) { s with edges := commandEdge 0x000 :: work } = ⟨.ok, 0x00⟩ :: rs ∧ answers rs

/-- 41_header.md R105, under the hypotheses of R104 (from the reset state, or from any state after CLR): decoding
the twelve bytes handed out recovers the magic value, the payload's length and its checksum, and exactly twelve
bytes are produced before `ERR_SEQ`. -/
def Obligations.EmittedHeaderDecodesToThePayload : Prop :=
  ∀ (bs : List Byte) (s : State), bs.length ≤ 0xFFFFFFFF →
    let work := commandEdges (bs.map .abs ++ [.bld] ++ List.replicate 12 .emt ++ [.emt])
    let decodes := fun rs : List Response => ∃ h : Vector Byte 12,
      rs.drop (bs.length + 1) = h.toList.map (⟨.ok, ·⟩) ++ [⟨.err .seq, 0x00⟩] ∧
      unle32 #v[h[0], h[1], h[2], h[3]] = 0x544F4F42 ∧
      unle32 #v[h[4], h[5], h[6], h[7]] = bs.length ∧
      unle32 #v[h[8], h[9], h[10], h[11]] = (sum8 bs).toNat
    (SameRegisters s State.reset → decodes (responses work.length { s with edges := work })) ∧
    decodes ((responses (work.length + 1) { s with edges := commandEdge 0x000 :: work }).drop 1)

/-- 30_encoding.md R75, 00_scope.md R19: the pseudo-instruction CHECKSUM assembles to CLR, the payload and RDC, from
any state answers OK throughout, and its last response carries `sum8` of the payload, however long. -/
def Obligations.ChecksumProgramAnswersSum8 : Prop :=
  ∀ (bs : List Byte) (s : State),
    assemble (.checksum (bs.map BitVec.toNat)) = .ok ((checksumProgram bs).map encode) ∧
    responses (bs.length + 2) { s with edges := commandEdges (checksumProgram bs) } =
      List.replicate (bs.length + 1) ⟨.ok, 0x00⟩ ++ [⟨.ok, sum8 bs⟩]

/-- 41_header.md R107, 20_memory.md R50 (b), 40_checksum.md R87: a header that is latched describes the bytes
absorbed before the BLD that built it, and nothing later, in number and in checksum: no truncated length is ever
there. -/
def Obligations.BuiltHeaderDescribesTheBytesBeforeIt : Prop :=
  ∀ (s : State) (before later : List PortIn), SameRegisters s State.reset →
    (∀ p ∈ before, keepsPayload p = true) → (∀ p ∈ later, keepsHeader p = true) →
    (absorbedBytes before).length ≤ 0xFFFFFFFF →
    ∃ t, runSteps (before.length + 1 + later.length)
          { s with edges := before ++ commandEdge 0x300 :: later } = some t ∧
      t.hvalid = true ∧
      decodeHeader t.hdr =
        ⟨0x544F4F42, (absorbedBytes before).length, (sum8 (absorbedBytes before)).toNat⟩

/-- 60_exceptions.md R132: once OVF is 1, BLD answers `ERR_OVERSIZE`, and after it, over any edges without reset and
CLR, OVF stays 1, every EMT answers `ERR_SEQ` and every further BLD `ERR_OVERSIZE`. -/
def Obligations.OversizePayloadYieldsNoHeaderByte : Prop :=
  ∀ s : State, s.ovf = true → ∀ es : List PortIn, (∀ p ∈ es, keepsPayload p = true) →
    ∃ t u v w, exec .bld s = .next t ∧ t.rsp = ⟨.err .oversize, 0x00⟩ ∧
      runSteps es.length { t with edges := es } = some u ∧ u.ovf = true ∧
      exec .emt u = .next v ∧ v.rsp = ⟨.err .seq, 0x00⟩ ∧
      exec .bld u = .next w ∧ w.rsp = ⟨.err .oversize, 0x00⟩

/-! ## The assembler notation -/

/-- 30_encoding.md R72, R74, R75: a line produces words exactly when it is well-formed: an operand on ABS alone,
every byte in 0 to 255, every `.word` in 0 to `0x7FF`. -/
def Obligations.AssemblerAcceptsExactlyWellFormedLines : Prop :=
  ∀ line, (∃ ws, assemble line = .ok ws) ↔ line.wellFormed = true

/-- 30_encoding.md R72 to R74: the assembly text of a word, legal or illegal, assembles to that word, and a listing
line is the word's three hexadecimal digits, two spaces and that text. The text's exact form is the MODEL's
reading (assumption log 13). -/
def Obligations.ListedTextAssemblesToItsWord : Prop :=
  ∀ w : CmdWord, assembleText (wordText w) = .ok [w] ∧
    ∃ digits, digits.length = 3 ∧ readNumber 16 digits = .ok w.toNat ∧
      listingLine w = digits ++ [' ', ' '] ++ wordText w

/-- 30_encoding.md R75, 00_scope.md R19: the pseudo-instruction BUILDHEADER assembles to CLR, one ABS a byte, BLD and
twelve EMTs, given here as words and as commands; after its CLR it presents exactly the commands of
`CommandSequenceEmitsBuildHeader`; and from any state it answers what R75's table says: `buildHeader` of a payload that
fits, `ERR_OVERSIZE` and twelve `ERR_SEQ` for one that does not. -/
def Obligations.BuildHeaderProgramEmitsBuildHeader : Prop :=
  ∀ (bs : List Byte) (s : State),
    let words : List CmdWord :=
      0x000 :: bs.map (fun b => BitVec.ofNat 11 (0x100 + b.toNat)) ++ 0x300 :: List.replicate 12 0x400
    let edges := commandEdges (buildHeaderProgram bs)
    let rs := responses (bs.length + 14) { s with edges := edges }
    assemble (.buildHeader (bs.map BitVec.toNat)) = .ok words ∧
    assemble (.buildHeader (bs.map BitVec.toNat)) = .ok ((buildHeaderProgram bs).map encode) ∧
    edges = commandEdge 0x000 :: commandEdges (bs.map .abs ++ [.bld] ++ List.replicate 12 .emt) ∧
    (bs.length ≤ 0xFFFFFFFF → ∃ h, buildHeader bs = .ok h ∧
      rs = List.replicate (bs.length + 2) ⟨.ok, 0x00⟩ ++ h.toList.map (⟨.ok, ·⟩)) ∧
    (0xFFFFFFFF < bs.length →
      rs = List.replicate (bs.length + 1) ⟨.ok, 0x00⟩ ++
        ⟨.err .oversize, 0x00⟩ :: List.replicate 12 ⟨.err .seq, 0x00⟩)
end

