-- ==== Sys2Proof/Laws/PerInstr.lean ====
section
/-! SUPPORT. Statements made once per command. LegalEncoding: a command's word is one of the 261 legal words of
spec/30_encoding.md R63. -/

namespace Sys2Proof.Laws

/-- The number of an encoded command: `op` above `imm8` (R60). -/
theorem encode_toNat (i : Instr) : (encode i).toNat = i.opcode.toNat * 256 + i.immediate.toNat := by
  have h : i.immediate.toNat < 2 ^ 8 := i.immediate.isLt
  rw [encode, BitVec.toNat_append, Nat.shiftLeft_eq, Nat.mul_comm, ← Nat.two_pow_add_eq_or_of_lt h]

end Sys2Proof.Laws

namespace Sys2Proof.Laws.LegalEncoding

/-- The command's word is legal (R63). -/
def Statement (i : Instr) : Prop := legalWord (encode i) = true

theorem clr : Statement .clr := rfl
theorem abs (imm8 : Byte) : Statement (.abs imm8) := by
  have h := imm8.isLt
  simp only [Statement, legalWord, encode_toNat, Instr.opcode, Instr.immediate, Bool.or_eq_true, beq_iff_eq]
  left
  show (1 * 256 + imm8.toNat) / 256 = 1
  omega
theorem rdc : Statement .rdc := rfl
theorem bld : Statement .bld := rfl
theorem emt : Statement .emt := rfl
theorem rds : Statement .rds := rfl

end Sys2Proof.Laws.LegalEncoding
end

