-- ==== Sys2Proof/Laws/State.lean ====
section
/-! SUPPORT. Every field after every named operation: one lemma per field per operation, true by rfl, so that no later
proof unfolds a record update. -/

namespace Sys2Proof.Machine

@[simp] theorem respond_acc (c : Code) (d : Byte) (s : State) : (respond c d s).acc = s.acc := rfl
@[simp] theorem respond_len (c : Code) (d : Byte) (s : State) : (respond c d s).len = s.len := rfl
@[simp] theorem respond_ovf (c : Code) (d : Byte) (s : State) : (respond c d s).ovf = s.ovf := rfl
@[simp] theorem respond_hdr (c : Code) (d : Byte) (s : State) : (respond c d s).hdr = s.hdr := rfl
@[simp] theorem respond_hvalid (c : Code) (d : Byte) (s : State) : (respond c d s).hvalid = s.hvalid := rfl
@[simp] theorem respond_hidx (c : Code) (d : Byte) (s : State) : (respond c d s).hidx = s.hidx := rfl
@[simp] theorem respond_rspValid (c : Code) (d : Byte) (s : State) : (respond c d s).rspValid = true := rfl
@[simp] theorem respond_rsp (c : Code) (d : Byte) (s : State) : (respond c d s).rsp = ⟨c, d⟩ := rfl
@[simp] theorem respond_edges (c : Code) (d : Byte) (s : State) : (respond c d s).edges = s.edges := rfl

@[simp] theorem raise_acc (e : Error) (s : State) : (raise e s).acc = s.acc := rfl
@[simp] theorem raise_len (e : Error) (s : State) : (raise e s).len = s.len := rfl
@[simp] theorem raise_ovf (e : Error) (s : State) : (raise e s).ovf = s.ovf := rfl
@[simp] theorem raise_hdr (e : Error) (s : State) : (raise e s).hdr = s.hdr := rfl
@[simp] theorem raise_hvalid (e : Error) (s : State) : (raise e s).hvalid = s.hvalid := rfl
@[simp] theorem raise_hidx (e : Error) (s : State) : (raise e s).hidx = s.hidx := rfl
@[simp] theorem raise_rspValid (e : Error) (s : State) : (raise e s).rspValid = true := rfl
@[simp] theorem raise_rsp (e : Error) (s : State) : (raise e s).rsp = ⟨.err e, 0x00⟩ := rfl
@[simp] theorem raise_edges (e : Error) (s : State) : (raise e s).edges = s.edges := rfl

@[simp] theorem wipeHeader_acc (s : State) : (wipeHeader s).acc = s.acc := rfl
@[simp] theorem wipeHeader_len (s : State) : (wipeHeader s).len = s.len := rfl
@[simp] theorem wipeHeader_ovf (s : State) : (wipeHeader s).ovf = s.ovf := rfl
@[simp] theorem wipeHeader_hdr (s : State) : (wipeHeader s).hdr = Vector.replicate 12 0x00 := rfl
@[simp] theorem wipeHeader_hvalid (s : State) : (wipeHeader s).hvalid = false := rfl
@[simp] theorem wipeHeader_hidx (s : State) : (wipeHeader s).hidx = 0 := rfl
@[simp] theorem wipeHeader_rspValid (s : State) : (wipeHeader s).rspValid = s.rspValid := rfl
@[simp] theorem wipeHeader_rsp (s : State) : (wipeHeader s).rsp = s.rsp := rfl
@[simp] theorem wipeHeader_edges (s : State) : (wipeHeader s).edges = s.edges := rfl

@[simp] theorem clearRegisters_acc (s : State) : (clearRegisters s).acc = 0x00 := rfl
@[simp] theorem clearRegisters_len (s : State) : (clearRegisters s).len = 0x00000000 := rfl
@[simp] theorem clearRegisters_ovf (s : State) : (clearRegisters s).ovf = false := rfl
@[simp] theorem clearRegisters_hdr (s : State) : (clearRegisters s).hdr = Vector.replicate 12 0x00 := rfl
@[simp] theorem clearRegisters_hvalid (s : State) : (clearRegisters s).hvalid = false := rfl
@[simp] theorem clearRegisters_hidx (s : State) : (clearRegisters s).hidx = 0 := rfl
@[simp] theorem clearRegisters_rspValid (s : State) : (clearRegisters s).rspValid = s.rspValid := rfl
@[simp] theorem clearRegisters_rsp (s : State) : (clearRegisters s).rsp = s.rsp := rfl
@[simp] theorem clearRegisters_edges (s : State) : (clearRegisters s).edges = s.edges := rfl

@[simp] theorem absorb_acc (b : Byte) (s : State) : (absorb b s).acc = s.acc + b := rfl
@[simp] theorem absorb_len (b : Byte) (s : State) : (absorb b s).len = lenAfterByte s.len := rfl
@[simp] theorem absorb_ovf (b : Byte) (s : State) : (absorb b s).ovf = ovfAfterByte s.len s.ovf := rfl
@[simp] theorem absorb_hdr (b : Byte) (s : State) : (absorb b s).hdr = s.hdr := rfl
@[simp] theorem absorb_hvalid (b : Byte) (s : State) : (absorb b s).hvalid = s.hvalid := rfl
@[simp] theorem absorb_hidx (b : Byte) (s : State) : (absorb b s).hidx = s.hidx := rfl
@[simp] theorem absorb_rspValid (b : Byte) (s : State) : (absorb b s).rspValid = s.rspValid := rfl
@[simp] theorem absorb_rsp (b : Byte) (s : State) : (absorb b s).rsp = s.rsp := rfl
@[simp] theorem absorb_edges (b : Byte) (s : State) : (absorb b s).edges = s.edges := rfl

@[simp] theorem latchHeader_acc (s : State) : (latchHeader s).acc = s.acc := rfl
@[simp] theorem latchHeader_len (s : State) : (latchHeader s).len = s.len := rfl
@[simp] theorem latchHeader_ovf (s : State) : (latchHeader s).ovf = s.ovf := rfl
@[simp] theorem latchHeader_hdr (s : State) : (latchHeader s).hdr = hdr Config.magic s.len s.acc := rfl
@[simp] theorem latchHeader_hvalid (s : State) : (latchHeader s).hvalid = true := rfl
@[simp] theorem latchHeader_hidx (s : State) : (latchHeader s).hidx = 0 := rfl
@[simp] theorem latchHeader_rspValid (s : State) : (latchHeader s).rspValid = s.rspValid := rfl
@[simp] theorem latchHeader_rsp (s : State) : (latchHeader s).rsp = s.rsp := rfl
@[simp] theorem latchHeader_edges (s : State) : (latchHeader s).edges = s.edges := rfl

@[simp] theorem advanceIndex_acc (s : State) : (advanceIndex s).acc = s.acc := rfl
@[simp] theorem advanceIndex_len (s : State) : (advanceIndex s).len = s.len := rfl
@[simp] theorem advanceIndex_ovf (s : State) : (advanceIndex s).ovf = s.ovf := rfl
@[simp] theorem advanceIndex_hdr (s : State) : (advanceIndex s).hdr = s.hdr := rfl
@[simp] theorem advanceIndex_hvalid (s : State) : (advanceIndex s).hvalid = s.hvalid := rfl
@[simp] theorem advanceIndex_hidx (s : State) :
    (advanceIndex s).hidx = if h : s.hidx.val < 12 then ⟨s.hidx.val + 1, Nat.succ_lt_succ h⟩ else s.hidx := rfl
@[simp] theorem advanceIndex_rspValid (s : State) : (advanceIndex s).rspValid = s.rspValid := rfl
@[simp] theorem advanceIndex_rsp (s : State) : (advanceIndex s).rsp = s.rsp := rfl
@[simp] theorem advanceIndex_edges (s : State) : (advanceIndex s).edges = s.edges := rfl

@[simp] theorem passEdge_acc (s : State) : (passEdge s).acc = s.acc := rfl
@[simp] theorem passEdge_len (s : State) : (passEdge s).len = s.len := rfl
@[simp] theorem passEdge_ovf (s : State) : (passEdge s).ovf = s.ovf := rfl
@[simp] theorem passEdge_hdr (s : State) : (passEdge s).hdr = s.hdr := rfl
@[simp] theorem passEdge_hvalid (s : State) : (passEdge s).hvalid = s.hvalid := rfl
@[simp] theorem passEdge_hidx (s : State) : (passEdge s).hidx = s.hidx := rfl
@[simp] theorem passEdge_rspValid (s : State) : (passEdge s).rspValid = s.rspValid := rfl
@[simp] theorem passEdge_rsp (s : State) : (passEdge s).rsp = s.rsp := rfl
@[simp] theorem passEdge_edges (s : State) : (passEdge s).edges = s.edges.tail := rfl

@[simp] theorem takeReset_acc (s : State) : (takeReset s).acc = 0x00 := rfl
@[simp] theorem takeReset_len (s : State) : (takeReset s).len = 0x00000000 := rfl
@[simp] theorem takeReset_ovf (s : State) : (takeReset s).ovf = false := rfl
@[simp] theorem takeReset_hdr (s : State) : (takeReset s).hdr = Vector.replicate 12 0x00 := rfl
@[simp] theorem takeReset_hvalid (s : State) : (takeReset s).hvalid = false := rfl
@[simp] theorem takeReset_hidx (s : State) : (takeReset s).hidx = 0 := rfl
@[simp] theorem takeReset_rspValid (s : State) : (takeReset s).rspValid = false := rfl
@[simp] theorem takeReset_rsp (s : State) : (takeReset s).rsp = s.rsp := rfl
@[simp] theorem takeReset_edges (s : State) : (takeReset s).edges = s.edges := rfl

@[simp] theorem takeIdle_acc (s : State) : (takeIdle s).acc = s.acc := rfl
@[simp] theorem takeIdle_len (s : State) : (takeIdle s).len = s.len := rfl
@[simp] theorem takeIdle_ovf (s : State) : (takeIdle s).ovf = s.ovf := rfl
@[simp] theorem takeIdle_hdr (s : State) : (takeIdle s).hdr = s.hdr := rfl
@[simp] theorem takeIdle_hvalid (s : State) : (takeIdle s).hvalid = s.hvalid := rfl
@[simp] theorem takeIdle_hidx (s : State) : (takeIdle s).hidx = s.hidx := rfl
@[simp] theorem takeIdle_rspValid (s : State) : (takeIdle s).rspValid = false := rfl
@[simp] theorem takeIdle_rsp (s : State) : (takeIdle s).rsp = s.rsp := rfl
@[simp] theorem takeIdle_edges (s : State) : (takeIdle s).edges = s.edges := rfl

@[simp] theorem takeIllegal_acc (s : State) : (takeIllegal s).acc = s.acc := rfl
@[simp] theorem takeIllegal_len (s : State) : (takeIllegal s).len = s.len := rfl
@[simp] theorem takeIllegal_ovf (s : State) : (takeIllegal s).ovf = s.ovf := rfl
@[simp] theorem takeIllegal_hdr (s : State) : (takeIllegal s).hdr = s.hdr := rfl
@[simp] theorem takeIllegal_hvalid (s : State) : (takeIllegal s).hvalid = s.hvalid := rfl
@[simp] theorem takeIllegal_hidx (s : State) : (takeIllegal s).hidx = s.hidx := rfl
@[simp] theorem takeIllegal_rspValid (s : State) : (takeIllegal s).rspValid = true := rfl
@[simp] theorem takeIllegal_rsp (s : State) : (takeIllegal s).rsp = ⟨.err .illegal, 0x00⟩ := rfl
@[simp] theorem takeIllegal_edges (s : State) : (takeIllegal s).edges = s.edges := rfl

end Sys2Proof.Machine
end

