-- ==== Sys2Proof/Laws/Step.lean ====
section
/-! SUPPORT. What each command, and one step, can do, said once: the lemmas to cite instead of unfolding a meaning or
the step. -/

namespace Sys2Proof.Machine

/-! The operands and flags. -/

/-- R102: a byte is available exactly while a header is built and not exhausted, and it is `HDR[HIDX]`. -/
theorem availableByte_eq_some_iff (s : State) (b : Byte) :
    availableByte s = some b ↔ s.hvalid = true ∧ ∃ h : s.hidx.val < 12, s.hdr[s.hidx.val] = b := by
  unfold availableByte
  split <;> [split; skip] <;> simp_all

/-- R102, R130: no byte is available exactly when `HVALID` is 0 or `HIDX` is 12. -/
theorem availableByte_eq_none_iff (s : State) :
    availableByte s = none ↔ s.hvalid = false ∨ s.hidx = 12 := by
  have h := s.hidx.isLt
  unfold availableByte
  split <;> [split; skip] <;> simp_all [Fin.ext_iff] <;> omega

/-- R89: LEN counts and saturates. -/
theorem lenAfterByte_toNat (len : Word32) :
    (lenAfterByte len).toNat = min (len.toNat + 1) Config.lenMax.toNat := by
  have hm : Config.lenMax.toNat = 4294967295 := rfl
  by_cases h : len = Config.lenMax
  · rw [lenAfterByte, if_pos h, h, hm]; rfl
  · have hne : len.toNat ≠ Config.lenMax.toNat := fun e => h (BitVec.eq_of_toNat_eq e)
    have hlt := len.isLt
    have h1 : (1 : Word32).toNat = 1 := rfl
    rw [hm] at hne ⊢
    rw [lenAfterByte, if_neg h, BitVec.toNat_add, h1]
    omega

/-! What each command can do. -/

/-- Every command has a next state: no arm of `exec` stops. -/
theorem exec_has_next (i : Instr) (s : State) : ∃ t, exec i s = .next t := by
  cases i <;> simp only [exec, execClr, execAbs, execRdc, execBld, execEmt, execRds] <;> (try split) <;>
    exact ⟨_, rfl⟩

/-- Everything a command can do (R125). -/
theorem exec_cases {i : Instr} {s t : State} (h : exec i s = .next t) :
    (i = .clr ∧ t = respond .ok 0x00 (clearRegisters s)) ∨
    (∃ b, i = .abs b ∧ t = respond .ok 0x00 (absorb b s)) ∨
    (i = .rdc ∧ t = respond .ok s.acc s) ∨
    (i = .bld ∧ s.ovf = true ∧ t = raise .oversize (wipeHeader s)) ∨
    (i = .bld ∧ s.ovf = false ∧ t = respond .ok 0x00 (latchHeader s)) ∨
    (∃ b, i = .emt ∧ availableByte s = some b ∧ t = respond .ok b (advanceIndex s)) ∨
    (i = .emt ∧ availableByte s = none ∧ t = raise .seq s) ∨
    (i = .rds ∧ t = respond .ok (statusByte s) s) := by
  cases i <;> simp only [exec, execClr, execAbs, execRdc, execBld, execEmt, execRds, payloadByte] at h
  case bld => split at h <;> cases h <;> simp_all
  case emt => split at h <;> cases h <;> simp_all
  all_goals cases h; simp

/-- Every command answers: `rsp_valid` is 1 after it, and the edges to come are as before (R65). -/
theorem exec_port {i : Instr} {s t : State} (h : exec i s = .next t) :
    t.rspValid = true ∧ t.edges = s.edges := by
  obtain ⟨-, rfl⟩ | ⟨b, -, rfl⟩ | ⟨-, rfl⟩ | ⟨-, -, rfl⟩ | ⟨-, -, rfl⟩ | ⟨b, -, -, rfl⟩ | ⟨-, -, rfl⟩ |
    ⟨-, rfl⟩ := exec_cases h <;> simp

/-! What one step can do. -/

/-- The event of the next edge, when there is one. -/
theorem nextEvent_cons {s : State} {p : PortIn} {es : List PortIn} (h : s.edges = p :: es) :
    nextEvent s = p.event := by
  simp [nextEvent, h]

@[simp] theorem commandEdge_event (w : CmdWord) : (commandEdge w).event = .command w := rfl
@[simp] theorem idleEdge_event : idleEdge.event = .idle := rfl

/-- Everything one step can do. -/
theorem step_cases {s t : State} (h : step s = .next t) :
    (nextEvent s = .reset ∧ t = takeReset (passEdge s)) ∨
    (nextEvent s = .idle ∧ t = takeIdle (passEdge s)) ∨
    (∃ w i, nextEvent s = .command w ∧ decode w = .ok i ∧ exec i (passEdge s) = .next t) ∨
    (∃ w e, nextEvent s = .command w ∧ decode w = .error e ∧ t = takeIllegal (passEdge s)) := by
  unfold step at h
  split at h
  · cases h; simp_all
  · cases h; simp_all
  · split at h
    · exact .inr (.inr (.inl ⟨_, _, ‹_›, ‹_›, h⟩))
    · cases h; exact .inr (.inr (.inr ⟨_, _, ‹_›, ‹_›, rfl⟩))

/-- Every step has a next state. -/
theorem step_has_next (s : State) : ∃ t, step s = .next t := by
  unfold step
  split
  · exact ⟨_, rfl⟩
  · exact ⟨_, rfl⟩
  · split
    · exact exec_has_next _ _
    · exact ⟨_, rfl⟩

/-- The step at an edge that presents a word: the command it decodes to, or the illegal-word response. -/
theorem step_command {s : State} {p : PortIn} {es : List PortIn} {w : CmdWord}
    (h : s.edges = p :: es) (hp : p.event = .command w) :
    step s = match decode w with
      | .ok i => exec i (passEdge s)
      | .error _ => .next (takeIllegal (passEdge s)) := by
  rw [step, nextEvent_cons h, hp] <;> rfl

/-- One step of a run. -/
theorem runSteps_succ {s t : State} (h : step s = .next t) (k : Nat) : runSteps (k + 1) s = runSteps k t := by
  simp [runSteps, nextState?, h]

/-- One step of a run's responses. -/
theorem responses_succ {s t : State} (h : step s = .next t) (k : Nat) :
    responses (k + 1) s = (if t.rspValid then [t.rsp] else []) ++ responses k t := by
  simp [responses, nextState?, h]

/-- Every step passes exactly one edge. -/
theorem step_edges {s t : State} (h : step s = .next t) : t.edges = s.edges.tail := by
  obtain ⟨-, rfl⟩ | ⟨-, rfl⟩ | ⟨w, i, -, -, h⟩ | ⟨w, e, -, -, rfl⟩ := step_cases h
  · simp
  · simp
  · simp [(exec_port h).2]
  · simp

end Sys2Proof.Machine
end

