-- ==== Sys2Proof/Tests/Slice0.lean ====
section
/-! SUPPORT. Tests. Expected results come from spec/95_test_vectors.md (V and S entries, named at each test) or from the
rule named; the witnesses show states and operands that meet the hypotheses of the statements. -/

namespace Sys2Proof.Tests

open Sys2Proof.Machine

/-! ## WellFormed: each check refuses an ill-formed term -/

theorem smoke_reserved_opcodes_are_ill_formed : legalWord 0x600 = false ∧ legalWord 0x7FF = false := by decide
theorem smoke_stray_immediates_are_ill_formed :
    legalWord 0x001 = false ∧ legalWord 0x2FF = false ∧ legalWord 0x380 = false ∧ legalWord 0x40C = false ∧
    legalWord 0x501 = false := by decide
theorem smoke_legal_words_are_well_formed :
    legalWord 0x000 = true ∧ legalWord 0x180 = true ∧ legalWord 0x500 = true := by decide
theorem smoke_operand_on_rdc_is_ill_formed : AsmLine.wellFormed (.command .rdc (some 0) 1) = false := by decide
theorem smoke_abs_without_operand_is_ill_formed : AsmLine.wellFormed (.command .abs none 1) = false := by decide
theorem smoke_abs_256_is_ill_formed : AsmLine.wellFormed (.command .abs (some 256) 1) = false := by decide
theorem smoke_word_0x800_is_ill_formed : AsmLine.wellFormed (.word 0x800) = false := by decide
theorem smoke_payload_byte_256_is_ill_formed :
    AsmLine.wellFormed (.checksum [1, 256]) = false ∧ AsmLine.wellFormed (.buildHeader [256]) = false := by decide
theorem smoke_well_formed_lines :
    AsmLine.wellFormed (.command .abs (some 255) 0) = true ∧ AsmLine.wellFormed (.word 0x7FF) = true ∧
    AsmLine.wellFormed (.checksum []) = true := by decide

/-! ## Decoding: words written out from the encoding (R60, R61, V4), `op` then `imm8` -/

theorem test_decode_clr : decode 0b00000000000#11 = .ok .clr := by decide
theorem test_decode_abs_00 : decode 0b00100000000#11 = .ok (.abs 0x00) := by decide
theorem test_decode_abs_7F : decode 0b00101111111#11 = .ok (.abs 0x7F) := by decide
theorem test_decode_abs_80 : decode 0b00110000000#11 = .ok (.abs 0x80) := by decide
theorem test_decode_rdc : decode 0b01000000000#11 = .ok .rdc := by decide
theorem test_decode_bld : decode 0b01100000000#11 = .ok .bld := by decide
theorem test_decode_emt : decode 0b10000000000#11 = .ok .emt := by decide
theorem test_decode_rds : decode 0b10100000000#11 = .ok .rds := by decide
theorem test_decode_stray_immediate : decode 0b00000000001#11 = .error (.nonzeroImmediate 0 0x01) := by decide
theorem test_decode_reserved : decode 0b11100000000#11 = .error (.reservedOpcode 7) := by decide
theorem test_encode_abs_7F : encode (.abs 0x7F) = 0x17F := by decide
theorem test_table_word : decodeTableWord 16 0x1FF = some (.abs 0xFF) ∧ decodeTableWord 16 0x6AB = none ∧
    decodeTableWord 16 0x800 = none := by decide
theorem test_response_words : -- R65, V4
    Response.word ⟨.ok, 0x42⟩ = 0x042 ∧ Response.word ⟨.err .oversize, 0x00⟩ = 0x100 ∧
    Response.word ⟨.err .seq, 0x00⟩ = 0x200 ∧ Response.word ⟨.err .illegal, 0x00⟩ = 0x300 := by decide

/-! ## The pure functions -/

theorem test_sum8 : -- V1 rows 7, 10
    sum8 [0xFF, 0x02] = 0x01 ∧ sum8 [0x12, 0x34, 0x56, 0x78, 0x9A] = 0xAE := by decide
theorem test_le32 : le32 0x12345678 = #v[0x78, 0x56, 0x34, 0x12] ∧ -- V2
    unle32 #v[0x78, 0x56, 0x34, 0x12] = 0x12345678 := by decide
theorem test_buildHeader : -- V1 row 3
    buildHeader [0xAB] = .ok #v[0x42, 0x4F, 0x4F, 0x54, 0x01, 0, 0, 0, 0xAB, 0, 0, 0] := by decide

/-! ## The commands, one step each -/

/-- A state with a quiet response port and nothing to come. -/
def at' (acc : Byte) (len : Word32) (ovf : Bool) (h : Vector Byte 12) (hvalid : Bool) (hidx : HdrIndex) : State :=
  { State.reset with acc := acc, len := len, ovf := ovf, hdr := h, hvalid := hvalid, hidx := hidx }

/-- Twelve zero bytes. -/
def noHeader : Vector Byte 12 := Vector.replicate 12 0x00

/-- The header of the payload FF 02 (95_test_vectors.md P2). -/
def header2 : Vector Byte 12 := #v[0x42, 0x4F, 0x4F, 0x54, 0x02, 0, 0, 0, 0x01, 0, 0, 0]

/-- What a command answers and leaves in the scalar registers. -/
def seen (i : Instr) (s : State) : Option (Response × Byte × Word32 × Bool × Bool × HdrIndex) :=
  (nextState? (exec i s)).map fun t => (t.rsp, t.acc, t.len, t.ovf, t.hvalid, t.hidx)

theorem test_clr : -- V6 row 3
    seen .clr (at' 0x9F 0xFFFFFFFF true header2 true 7) = some (⟨.ok, 0⟩, 0, 0, false, false, 0) := by decide
theorem test_abs_wraps : -- V5 row 4
    seen (.abs 0xFF) (at' 0xFF 1 false noHeader false 0) = some (⟨.ok, 0⟩, 0xFE, 2, false, false, 0) := by decide
theorem test_abs_overflows : -- V5 row 7
    seen (.abs 0x10) (at' 0x8F 0xFFFFFFFF false header2 true 1) =
      some (⟨.ok, 0⟩, 0x9F, 0xFFFFFFFF, true, true, 1) := by decide
theorem test_rdc : -- V6 row 7
    seen .rdc (at' 0x9F 0xFFFFFFFF true noHeader false 0) =
      some (⟨.ok, 0x9F⟩, 0x9F, 0xFFFFFFFF, true, false, 0) := by decide
theorem test_bld : -- V7 row 5
    (nextState? (exec .bld (at' 0xAB 0x12345678 false noHeader false 0))).map (·.hdr) =
      some #v[0x42, 0x4F, 0x4F, 0x54, 0x78, 0x56, 0x34, 0x12, 0xAB, 0, 0, 0] := by decide
theorem test_bld_fails : -- V7 row 11
    seen .bld (at' 0x9F 0xFFFFFFFF true header2 true 5) =
      some (⟨.err .oversize, 0⟩, 0x9F, 0xFFFFFFFF, true, false, 0) := by decide
theorem test_emt : -- V8 row 6
    seen .emt (at' 0x01 2 false header2 true 4) = some (⟨.ok, 0x02⟩, 0x01, 2, false, true, 5) := by decide
theorem test_emt_exhausted : -- V8 row 11
    seen .emt (at' 0x01 2 false header2 true 12) = some (⟨.err .seq, 0⟩, 0x01, 2, false, true, 12) := by decide
theorem test_rds : -- V9, HIDX 5, HVALID 1, OVF 1
    seen .rds (at' 0x01 2 true header2 true 5) = some (⟨.ok, 0x17⟩, 0x01, 2, true, true, 5) := by decide

/-! ## Steps -/

/-- `at'` with edges to come. -/
def busy (es : List PortIn) : State := { at' 0x9F 0xFFFFFFFF true header2 true 5 with edges := es }

theorem test_illegal_word_before_any_state_check : -- V10: 301 with OVF 1
    (nextState? (step (busy [commandEdge 0x301]))).map (fun t => (t.rsp, t.hvalid, t.hidx)) =
      some (⟨.err .illegal, 0⟩, true, 5) := by decide
theorem test_reset_beats_command : -- V11
    (nextState? (step (busy [⟨true, true, 0x1FF⟩]))).map (fun t => (t.rspValid, t.acc, t.len, t.ovf, t.hvalid)) =
      some (false, 0, 0, false, false) := by decide
theorem test_idle : -- R124
    (nextState? (step (busy []))).map (fun t => (t.rspValid, t.acc, t.hidx)) = some (false, 0x9F, 5) := by decide
theorem test_fetch_word_runs_first_after_reset :
    (nextState? (step (State.reset.withFetchWord 16 0x120))).map (fun t => (t.acc, t.len, t.rspValid)) =
      some (0x20, 1, true) := by decide

/-! ## The assembler notation -/

theorem test_read_abs_repeat : -- R72: `ABS 0x01 x1024 ; c`
    readLine ['A', 'B', 'S', ' ', '0', 'x', '0', '1', ' ', 'x', '1', '0', '2', '4', ' ', ';', ' ', 'c'] =
      .ok (.command .abs (some 1) 1024) := by decide
theorem test_read_checksum : -- R75: `CHECKSUM 0x01, 2`
    readLine ['C', 'H', 'E', 'C', 'K', 'S', 'U', 'M', ' ', '0', 'x', '0', '1', ',', ' ', '2'] =
      .ok (.checksum [1, 2]) := by decide
theorem test_assemble_checksum : -- 95_test_vectors.md P1
    assemble (.checksum [1, 2, 3]) = .ok [0x000, 0x101, 0x102, 0x103, 0x200] := by decide
theorem test_assemble_buildHeader : -- R75: the twelve EMT words close the program
    assemble (.buildHeader [0x01]) =
      .ok [0x000, 0x101, 0x300, 0x400, 0x400, 0x400, 0x400, 0x400, 0x400, 0x400, 0x400, 0x400, 0x400, 0x400, 0x400] := by
  rfl
theorem test_listing : -- R73, R74
    listingLine 0x1FF = ['1', 'F', 'F', ' ', ' ', 'A', 'B', 'S', ' ', '0', 'x', 'F', 'F'] ∧
    wordText 0x6AB = ['.', 'w', 'o', 'r', 'd', ' ', '0', 'x', '6', 'A', 'B'] := by decide

/-! ## Witnesses: what the hypotheses of the statements admit -/

/-- A payload one byte too long for the length field. -/
theorem witness_oversize_payload : 0xFFFFFFFF < (List.replicate (2 ^ 32) (0x00 : Byte)).length := by
  rw [List.length_replicate]; decide
/-- The longest payload the length field can carry. -/
theorem witness_longest_payload : (List.replicate (2 ^ 32 - 1) (0x00 : Byte)).length = 0xFFFFFFFF := by
  rw [List.length_replicate]; decide
theorem witness_PureFunctionsMeetTheSourceLaws : ([0xFF, 0x02] : List Byte).length ≤ 0xFFFFFFFF := by decide
theorem witness_OpcodeTableSelectsTheDecodedRow :
    ⟨.abs, 0x100, 0x700⟩ ∈ opcodeTable ∧ OpcodeRow.selectedBy ⟨.abs, 0x100, 0x700⟩ 0x1AB = true ∧
    decode 0x1AB = .ok (.abs 0xAB) ∧ decode 0x7FF = .error (.nonzeroImmediate 7 0xFF) := by decide
theorem witness_LegalWordsAreExactlyTheEncodings : decode 0x1AB = .ok (.abs 0xAB) ∧ decode 0x500 = .ok .rds := by
  decide
theorem witness_ChecksumIgnoresOrderAndZeroBytes : ([0x01, 0x02] : List Byte).Perm [0x02, 0x01] := by decide
theorem witness_FaithfulFrameMatchesItsHeader :
    PayloadFidelity [0xFF, 0x02] [0xFF, 0x02] ∧ ([0xFF, 0x02] : List Byte).length ≤ 0xFFFFFFFF := ⟨rfl, by decide⟩

/-- CLR takes an OVF of 1 to 0. -/
theorem witness_ClrClearsEveryRegister : ∃ s t, exec .clr s = .next t ∧ s.ovf = true ∧ t.ovf = false :=
  ⟨at' 0x9F 0xFFFFFFFF true noHeader false 0, _, rfl, rfl, rfl⟩
/-- BLD at LEN_MAX with OVF 0, with OVF 1, and a response `ERR_OVERSIZE`. -/
theorem witness_BldLatchesTheHeaderOrFails :
    (at' 0x7F 0xFFFFFFFF false noHeader false 0).ovf = false ∧ (at' 0x9F 0xFFFFFFFF true noHeader false 0).ovf = true ∧
    ∃ t, exec .bld (at' 0x9F 0xFFFFFFFF true noHeader false 0) = .next t ∧ t.rsp.code = .err .oversize :=
  ⟨rfl, rfl, _, rfl, rfl⟩
/-- EMT at the first and the last offset, exhausted, and with no header. -/
theorem witness_EmtAnswersTheNextHeaderByteOrFails :
    (at' 0x01 2 false header2 true 0).hvalid = true ∧ (at' 0x01 2 false header2 true 0).hidx.val < 12 ∧
    (at' 0x01 2 false header2 true 11).hidx.val < 12 ∧ (at' 0x01 2 false header2 true 12).hidx = 12 ∧
    (at' 0x01 2 false noHeader false 0).hvalid = false := by decide
/-- A state with a built header meets the invariants. -/
theorem witness_invariants_with_header : RegisterInvariants (at' 0x01 2 false header2 true 5) :=
  ⟨by decide, fun h => (by cases h), by decide, fun h => (by cases h), fun _ => ⟨2, 0x01, by decide⟩⟩
theorem witness_RdsAnswersTheStatusByte : RegisterInvariants (at' 0x01 2 false header2 true 5) :=
  witness_invariants_with_header
theorem witness_EveryStepKeepsTheInvariants :
    ∃ t, RegisterInvariants (at' 0x01 2 false header2 true 5) ∧ step (at' 0x01 2 false header2 true 5) = .next t :=
  ⟨_, witness_invariants_with_header, rfl⟩
theorem witness_ClrBldRdcRdsAreIdempotent : ∃ t, exec .bld (at' 0x01 2 false header2 true 12) = .next t := ⟨_, rfl⟩

/-- A step on a command; one that changes HIDX by EMT. -/
theorem witness_OnlyTheListedEventsChangeARegister :
    ∃ t, step (busy [commandEdge 0x400]) = .next t ∧ t.hidx ≠ (busy [commandEdge 0x400]).hidx :=
  ⟨_, rfl, by decide⟩
/-- Each error is answered by some step. -/
theorem witness_ErrorsAreAnsweredExactlyWhenTheRulesSay :
    (∃ t, nextEvent (busy [commandEdge 0x300]) = .command 0x300 ∧ step (busy [commandEdge 0x300]) = .next t ∧
      t.rsp.code = .err .oversize) ∧
    (∃ t, nextEvent (busy [commandEdge 0x401]) = .command 0x401 ∧ step (busy [commandEdge 0x401]) = .next t ∧
      t.rsp.code = .err .illegal) ∧
    ∃ t, step { State.reset with edges := [commandEdge 0x400] } = .next t ∧ t.rsp.code = .err .seq :=
  ⟨⟨_, rfl, rfl, rfl⟩, ⟨_, rfl, rfl, rfl⟩, ⟨_, rfl, rfl⟩⟩
theorem witness_ErrorResponsesChangeOnlyWhatTheyList :
    ∃ t, nextEvent (busy [commandEdge 0x300]) = .command 0x300 ∧ step (busy [commandEdge 0x300]) = .next t ∧
      t.rsp.code = .err .oversize :=
  ⟨_, rfl, rfl, rfl⟩
/-- BLD, an illegal word, and RDS. -/
theorem witness_EveryCommandAnswersOneResponse :
    (∃ t, step (busy [commandEdge 0x300]) = .next t ∧ nextEvent (busy [commandEdge 0x300]) = .command 0x300 ∧
      decode 0x300 = .ok .bld) ∧
    (∃ t, step (busy [commandEdge 0x7FF]) = .next t ∧ nextEvent (busy [commandEdge 0x7FF]) = .command 0x7FF ∧
      decode 0x7FF = .error (.nonzeroImmediate 7 0xFF)) ∧
    ∃ t, step (busy [commandEdge 0x500]) = .next t ∧ nextEvent (busy [commandEdge 0x500]) = .command 0x500 :=
  ⟨⟨_, rfl, rfl, rfl⟩, ⟨_, rfl, rfl, rfl⟩, _, rfl, rfl⟩
/-- An idle edge and a reset edge. -/
theorem witness_ResponseIsHeldUntilTheNextCommand :
    nextEvent (busy [idleEdge]) = .idle ∧ nextEvent (busy [⟨true, true, 0x000⟩]) = .reset ∧
    ∃ t, step (busy [⟨true, true, 0x000⟩]) = .next t :=
  ⟨rfl, rfl, _, rfl⟩
theorem witness_StepRunsTheDecodedCommand :
    (busy [commandEdge 0x1FF]).edges = commandEdge 0x1FF :: [] ∧ (commandEdge 0x1FF).rst = false ∧
    (commandEdge 0x1FF).cmdValid = true ∧ decode (commandEdge 0x1FF).cmd = .ok (.abs 0xFF) := by decide
theorem witness_WithFetchWordRunsTheTableWord : decodeTableWord 16 0x300 = some .bld := by decide
theorem witness_IllegalWordAnswersErrIllegal :
    (commandEdge 0x600).rst = false ∧ (commandEdge 0x600).cmdValid = true ∧
    decode (commandEdge 0x600).cmd = .error (.reservedOpcode 6) := by decide
theorem witness_ResetEdgeWinsOverAnyCommand :
    (busy [⟨true, true, 0x1FF⟩]).edges = ⟨true, true, 0x1FF⟩ :: [] ∧ (⟨true, true, 0x1FF⟩ : PortIn).rst = true := by
  decide
theorem witness_IdleEdgesHaveNoEffect :
    (busy [⟨false, false, 0x1FF⟩]).edges = ⟨false, false, 0x1FF⟩ :: [] ∧
    (⟨false, false, 0x1FF⟩ : PortIn).rst = false ∧ (⟨false, false, 0x1FF⟩ : PortIn).cmdValid = false := by decide
/-- Two states that differ in what the response port holds. -/
theorem witness_ResponsesDependOnRegistersAndInputsAlone :
    SameRegisters (busy []) { busy [] with rspValid := true, rsp := ⟨.ok, 0x42⟩ } ∧
    busy [] ≠ { busy [] with rspValid := true, rsp := ⟨.ok, 0x42⟩ } :=
  ⟨⟨rfl, rfl, rfl, rfl, rfl, rfl⟩, by decide⟩

/-- Edges without reset and CLR: ABS, RDC, BLD, EMT, RDS, an illegal word and an idle edge. -/
def payloadEdges : List PortIn :=
  [commandEdge 0x1FF, commandEdge 0x200, commandEdge 0x300, commandEdge 0x400, commandEdge 0x500, commandEdge 0x6AB,
   idleEdge, commandEdge 0x102]

theorem witness_AbsorptionContinuesFromAnyState :
    (∀ p ∈ payloadEdges, keepsPayload p = true) ∧ absorbedBytes payloadEdges = [0xFF, 0x02] := by decide
theorem witness_StreamedChecksumIsSum8 :
    (∀ p ∈ payloadEdges, keepsPayload p = true) ∧ SameRegisters State.reset State.reset ∧
    (∃ t, runSteps payloadEdges.length { State.reset with edges := payloadEdges } = some t) ∧
    ∃ t, runSteps (payloadEdges.length + 1) { busy [] with edges := commandEdge 0x000 :: payloadEdges } = some t :=
  ⟨by decide, ⟨rfl, rfl, rfl, rfl, rfl, rfl⟩, ⟨_, rfl⟩, ⟨_, rfl⟩⟩
/-- Twelve EMTs and an ABS among them: the boundary of the emission law. -/
theorem witness_EmissionGivesTheLatchedBytesInOrder :
    (at' 0x01 2 false noHeader false 0).ovf = false ∧
    (∀ p ∈ commandEdge 0x155 :: List.replicate 12 (commandEdge 0x400), keepsHeader p = true) ∧
    emitCount (commandEdge 0x155 :: List.replicate 12 (commandEdge 0x400)) = 12 ∧
    emitCount (List.replicate 11 (commandEdge 0x400)) = 11 := by decide
/-- The reset registers; a short payload, the longest that fits, and one that does not. -/
theorem witness_CommandSequenceEmitsBuildHeader :
    SameRegisters State.reset State.reset ∧ ([0xFF, 0x02] : List Byte).length ≤ 0xFFFFFFFF ∧
    (List.replicate (2 ^ 32 - 1) (0x00 : Byte)).length ≤ 0xFFFFFFFF ∧
    0xFFFFFFFF < (List.replicate (2 ^ 32) (0x00 : Byte)).length :=
  ⟨⟨rfl, rfl, rfl, rfl, rfl, rfl⟩, by decide, witness_longest_payload.le, witness_oversize_payload⟩
theorem witness_EmittedHeaderDecodesToThePayload : ([0xFF, 0x02] : List Byte).length ≤ 0xFFFFFFFF := by decide
theorem witness_BuiltHeaderDescribesTheBytesBeforeIt :
    SameRegisters State.reset State.reset ∧ (∀ p ∈ payloadEdges, keepsPayload p = true) ∧
    (∀ p ∈ [commandEdge 0x400, commandEdge 0x155], keepsHeader p = true) ∧
    (absorbedBytes payloadEdges).length ≤ 0xFFFFFFFF :=
  ⟨⟨rfl, rfl, rfl, rfl, rfl, rfl⟩, by decide, by decide, by decide⟩
theorem witness_OversizePayloadYieldsNoHeaderByte :
    (busy []).ovf = true ∧ (∀ p ∈ payloadEdges, keepsPayload p = true) := by decide
theorem witness_AssemblerAcceptsExactlyWellFormedLines :
    AsmLine.wellFormed (.command .abs (some 255) 3) = true ∧ AsmLine.wellFormed (.command .abs (some 256) 3) = false := by
  decide
/-- The longest payload that fits and the shortest that does not. -/
theorem witness_BuildHeaderProgramEmitsBuildHeader :
    (List.replicate (2 ^ 32 - 1) (0x00 : Byte)).length ≤ 0xFFFFFFFF ∧
    0xFFFFFFFF < (List.replicate (2 ^ 32) (0x00 : Byte)).length :=
  ⟨witness_longest_payload.le, witness_oversize_payload⟩

end Sys2Proof.Tests
end

section
/-! PROOFS. The pure functions (spec/00_scope.md R10 to R14): what `le32`, `unle32`, `hdr`, `decodeHeader`, `sum8` and
`buildHeader` answer, each said once, and the statements O5, O6 and O7. -/

namespace Sys2Proof.Machine

/-! ## The little-endian packer and its inverse (R11) -/

/-- Bits `8k+7 .. 8k` of a word are its base-256 digit `k`. -/
theorem le32_getElem_toNat (w : Word32) (k : Nat) (hk : k < 4) :
    (le32 w)[k].toNat = w.toNat / 256 ^ k % 256 := by
  have digit (start : Nat) : (w.extractLsb' start 8).toNat = w.toNat / 2 ^ start % 256 := by
    rw [BitVec.extractLsb'_toNat, Nat.shiftRight_eq_div_pow]
  match k, hk with
  | 0, _ => exact digit 0
  | 1, _ => exact digit 8
  | 2, _ => exact digit 16
  | 3, _ => exact digit 24

/-- The base-256 digits of the number four bytes stand for are the bytes. -/
theorem unle32_digit (v : Vector Byte 4) (k : Nat) (hk : k < 4) :
    unle32 v / 256 ^ k % 256 = v[k].toNat := by
  have h0 := v[0].isLt
  have h1 := v[1].isLt
  have h2 := v[2].isLt
  have h3 := v[3].isLt
  unfold unle32
  match k, hk with
  | 0, _ => omega
  | 1, _ => omega
  | 2, _ => omega
  | 3, _ => omega

/-- Four bytes stand for a 32-bit number. -/
theorem unle32_lt (v : Vector Byte 4) : unle32 v < 2 ^ 32 := by
  have h0 := v[0].isLt
  have h1 := v[1].isLt
  have h2 := v[2].isLt
  have h3 := v[3].isLt
  unfold unle32
  omega

@[simp] theorem unle32_le32 (w : Word32) : unle32 (le32 w) = w.toNat := by
  have hw := w.isLt
  simp only [unle32, le32_getElem_toNat]
  omega

@[simp] theorem le32_unle32 (v : Vector Byte 4) : le32 (BitVec.ofNat 32 (unle32 v)) = v := by
  ext k hk : 1
  apply BitVec.eq_of_toNat_eq
  rw [le32_getElem_toNat, BitVec.toNat_ofNat, Nat.mod_eq_of_lt (unle32_lt v), unle32_digit v k hk]

/-- Settles O5: both inverse laws are the base-256 digits of a 32-bit number read in the two directions. -/
theorem unle32InvertsLe32 : Obligations.Unle32InvertsLe32 := by
  unfold Obligations.Unle32InvertsLe32
  exact ⟨fun w k => le32_getElem_toNat w k k.isLt, fun _ => rfl, unle32_le32, le32_unle32, by decide, by decide⟩

/-! ## The header and its decoding (R12, R69) -/

/-- The twelve bytes in wire order are those of the three fields. -/
theorem hdr_toList (m l : Word32) (c : Byte) :
    (hdr m l c).toList = (le32 m).toList ++ (le32 l).toList ++ (le32 (c.setWidth 32)).toList := by
  simp only [hdr, Vector.toList_append]

/-- Offsets 0 to 3 hold the first field. -/
theorem hdr_getElem_first (m l : Word32) (c : Byte) (k : Nat) (hk : k < 4) :
    (hdr m l c)[k] = (le32 m)[k] :=
  (Vector.getElem_append_left (Nat.lt_add_right 4 hk)).trans (Vector.getElem_append_left hk)

/-- Offsets 4 to 7 hold the second field. -/
theorem hdr_getElem_second (m l : Word32) (c : Byte) (k : Nat) (hk : k < 4) :
    (hdr m l c)[4 + k] = (le32 l)[k] := by
  have left : (hdr m l c)[4 + k] = (le32 m ++ le32 l)[4 + k] := Vector.getElem_append_left (by omega)
  rw [left, Vector.getElem_append_right (by omega) (by omega)]
  simp only [Nat.add_sub_cancel_left]

/-- Offsets 8 to 11 hold the third field, the zero-extended byte. -/
theorem hdr_getElem_third (m l : Word32) (c : Byte) (k : Nat) (hk : k < 4) :
    (hdr m l c)[8 + k] = (le32 (c.setWidth 32))[k] := by
  have right : (hdr m l c)[8 + k] = (le32 (c.setWidth 32))[8 + k - (4 + 4)] :=
    Vector.getElem_append_right (by omega) (by omega)
  simp only [right, Nat.add_sub_cancel_left]

/-- A consumer reads back the three fields a header was made from. -/
@[simp] theorem decodeHeader_hdr (m l : Word32) (c : Byte) :
    decodeHeader (hdr m l c) = ⟨m.toNat, l.toNat, c.toNat⟩ := by
  have toNat_third : (c.setWidth 32).toNat = c.toNat := BitVec.toNat_setWidth_of_le (by decide)
  rw [← unle32_le32 m, ← unle32_le32 l, ← toNat_third, ← unle32_le32 (c.setWidth 32)]
  rfl

/-- The packed zero extension of a byte is the byte and three zero bytes. -/
theorem le32_setWidth_byte (c : Byte) : le32 (c.setWidth 32) = #v[c, 0x00, 0x00, 0x00] := by
  have value : unle32 #v[c, 0x00, 0x00, 0x00] = c.toNat := rfl
  rw [← le32_unle32 #v[c, 0x00, 0x00, 0x00], value, BitVec.ofNat_toNat]

/-- Settles O6: each field's offsets hold its packed bytes, and a zero-extended byte packs to itself and zeros. -/
theorem hdrConcatenatesTheThreeFields : Obligations.HdrConcatenatesTheThreeFields := by
  unfold Obligations.HdrConcatenatesTheThreeFields
  intro m l c
  have third (k : Nat) (hk : k < 4) : (hdr m l c)[8 + k] = #v[c, 0x00, 0x00, 0x00][k] := by
    simp only [hdr_getElem_third m l c k hk, le32_setWidth_byte]
  refine ⟨⟨c.setWidth 32, BitVec.toNat_setWidth_of_le (by decide), hdr_toList m l c⟩, fun k => ?_, fun k => ?_,
    third 0 (by decide), third 1 (by decide), third 2 (by decide), third 3 (by decide)⟩
  · rw [hdr_getElem_first m l c k k.isLt, le32_getElem_toNat]
  · rw [hdr_getElem_second m l c k k.isLt, le32_getElem_toNat]

/-! ## The checksum (R10) and the source's `buildHeader` (R13) -/

theorem sum8_toNat (bs : List Byte) : (sum8 bs).toNat = (bs.map BitVec.toNat).sum % 256 := by
  rw [sum8, BitVec.toNat_ofNat, Nat.mod_mod]

/-- R14 (b): the checksum is additive modulo 256. -/
theorem sum8_append_toNat (bs cs : List Byte) :
    (sum8 (bs ++ cs)).toNat = ((sum8 bs).toNat + (sum8 cs).toNat) % 256 := by
  simp only [sum8_toNat, List.map_append, List.sum_append, Nat.add_mod_mod, Nat.mod_add_mod]

@[simp] theorem sum8_singleton (b : Byte) : sum8 [b] = b := by
  apply BitVec.eq_of_toNat_eq
  rw [sum8_toNat, List.map_singleton, List.sum_singleton, Nat.mod_eq_of_lt b.isLt]

theorem buildHeader_of_length_le {bs : List Byte} (h : bs.length ≤ 0xFFFFFFFF) :
    buildHeader bs = .ok (hdr Config.magic (BitVec.ofNat 32 bs.length) (sum8 bs)) :=
  if_neg (Nat.not_lt.mpr h)

theorem buildHeader_of_lt_length {bs : List Byte} (h : 0xFFFFFFFF < bs.length) :
    buildHeader bs = .error .oversizedPayload :=
  if_pos h

/-- R14 (d): the header of a payload that fits decodes to the magic value, the payload's length and its checksum. -/
theorem decodeHeader_hdr_of_length_le {bs : List Byte} (h : bs.length ≤ 0xFFFFFFFF) :
    decodeHeader (hdr Config.magic (BitVec.ofNat 32 bs.length) (sum8 bs)) =
      ⟨0x544F4F42, bs.length, (sum8 bs).toNat⟩ := by
  rw [decodeHeader_hdr, BitVec.toNat_ofNat, Nat.mod_eq_of_lt (by omega)]
  rfl

/-- Settles O7: the streaming law is the homomorphism at one byte, and the round trip is `decodeHeader` after `hdr` with
a length that fits its field. -/
theorem pureFunctionsMeetTheSourceLaws : Obligations.PureFunctionsMeetTheSourceLaws := by
  unfold Obligations.PureFunctionsMeetTheSourceLaws
  refine ⟨fun bs => Nat.le_of_lt_succ (sum8 bs).isLt, sum8_append_toNat, fun bs h => ?_,
    fun _ => buildHeader_of_lt_length, fun bs b => ?_⟩
  · exact ⟨_, buildHeader_of_length_le h, Vector.length_toList, decodeHeader_hdr_of_length_le h⟩
  · rw [sum8_append_toNat, sum8_singleton]

end Sys2Proof.Machine
end

section
/-! PROOFS. The registers (spec/10_state.md R28, R32 to R34): what one step writes into them, said once as
`RegisterEffect`, and the statements O12, O19, O31, O32 and O33. -/

namespace Sys2Proof.Machine

/-! ## What one step writes into the six registers -/

/-- The next edge runs the command `i`: it presents a word that decodes to `i`. -/
def Runs (s : State) (i : Instr) : Prop := ∃ w, nextEvent s = .command w ∧ decode w = .ok i

/-- The writes of the access matrix of R28: the registers of `t` are those of `s` after the one named operation that the
next edge of `s` asks for. -/
inductive RegisterEffect (s t : State) : Prop where
  | cleared (event : nextEvent s = .reset ∨ Runs s .clr) (regs : SameRegisters t State.reset)
  | absorbed (b : Byte) (runs : Runs s (.abs b)) (regs : SameRegisters t (absorb b s))
  | wiped (runs : Runs s .bld) (ovf : s.ovf = true) (regs : SameRegisters t (wipeHeader s))
  | latched (runs : Runs s .bld) (ovf : s.ovf = false) (regs : SameRegisters t (latchHeader s))
  | advanced (runs : Runs s .emt) (hvalid : s.hvalid = true) (room : s.hidx.val < 12)
      (regs : SameRegisters t (advanceIndex s))
  | kept (regs : SameRegisters t s)

/-- A command writes the registers as the access matrix says. -/
theorem registerEffect_of_exec {s t : State} {i : Instr} (run : Runs s i) (h : exec i (passEdge s) = .next t) :
    RegisterEffect s t := by
  obtain ⟨rfl, rfl⟩ | ⟨b, rfl, rfl⟩ | ⟨-, rfl⟩ | ⟨rfl, ovf, rfl⟩ | ⟨rfl, ovf, rfl⟩ | ⟨b, rfl, available, rfl⟩ |
    ⟨-, -, rfl⟩ | ⟨-, rfl⟩ := exec_cases h
  · exact .cleared (.inr run) ⟨rfl, rfl, rfl, rfl, rfl, rfl⟩
  · exact .absorbed b run ⟨rfl, rfl, rfl, rfl, rfl, rfl⟩
  · exact .kept ⟨rfl, rfl, rfl, rfl, rfl, rfl⟩
  · exact .wiped run ovf ⟨rfl, rfl, rfl, rfl, rfl, rfl⟩
  · exact .latched run ovf ⟨rfl, rfl, rfl, rfl, rfl, rfl⟩
  · obtain ⟨hvalid, room, -⟩ := (availableByte_eq_some_iff _ _).mp available
    exact .advanced run hvalid room ⟨rfl, rfl, rfl, rfl, rfl, rfl⟩
  · exact .kept ⟨rfl, rfl, rfl, rfl, rfl, rfl⟩
  · exact .kept ⟨rfl, rfl, rfl, rfl, rfl, rfl⟩

/-- Every step writes the registers as the access matrix says. -/
theorem registerEffect_of_step {s t : State} (h : step s = .next t) : RegisterEffect s t := by
  obtain ⟨reset, rfl⟩ | ⟨-, rfl⟩ | ⟨w, i, event, decoded, h⟩ | ⟨w, e, -, -, rfl⟩ := step_cases h
  · exact .cleared (.inl reset) ⟨rfl, rfl, rfl, rfl, rfl, rfl⟩
  · exact .kept ⟨rfl, rfl, rfl, rfl, rfl, rfl⟩
  · exact registerEffect_of_exec ⟨w, event, decoded⟩ h
  · exact .kept ⟨rfl, rfl, rfl, rfl, rfl, rfl⟩

/-! ## The access matrix, register by register (R28) -/

/-- R82: a byte sets OVF or leaves it. -/
theorem ovfAfterByte_eq_true_or_self (len : Word32) (ovf : Bool) :
    ovfAfterByte len ovf = true ∨ ovfAfterByte len ovf = ovf := by
  unfold ovfAfterByte
  split
  · exact .inl rfl
  · exact .inr rfl

theorem advanceIndex_hidx_val_of_lt {s : State} (room : s.hidx.val < 12) :
    (advanceIndex s).hidx.val = s.hidx.val + 1 := by
  simp [room]

/-- The columns of ACC, LEN and OVF: a reset, CLR or ABS, and ABS only sets OVF. -/
theorem RegisterEffect.payload_changes {s t : State} (effect : RegisterEffect s t) :
    (t.acc ≠ s.acc → nextEvent s = .reset ∨ Runs s .clr ∨ ∃ b, Runs s (.abs b)) ∧
    (t.len ≠ s.len → nextEvent s = .reset ∨ Runs s .clr ∨ ∃ b, Runs s (.abs b)) ∧
    (t.ovf ≠ s.ovf → nextEvent s = .reset ∨ Runs s .clr ∨ ∃ b, Runs s (.abs b) ∧ t.ovf = true) := by
  cases effect with
  | cleared event _ =>
    exact ⟨fun _ => event.imp_right .inl, fun _ => event.imp_right .inl, fun _ => event.imp_right .inl⟩
  | absorbed b runs regs =>
    have ovf_set_or_kept : t.ovf = true ∨ t.ovf = s.ovf := regs.ovf ▸ ovfAfterByte_eq_true_or_self s.len s.ovf
    exact ⟨fun _ => .inr (.inr ⟨b, runs⟩), fun _ => .inr (.inr ⟨b, runs⟩),
      fun changed => .inr (.inr ⟨b, runs, ovf_set_or_kept.resolve_right changed⟩)⟩
  | wiped _ _ regs | latched _ _ regs | advanced _ _ _ regs | kept regs =>
    exact ⟨absurd regs.acc, absurd regs.len, absurd regs.ovf⟩

/-- The columns of HDR, HVALID and HIDX: a reset, CLR or BLD, with HIDX to 0, and EMT for HIDX, by one. -/
theorem RegisterEffect.header_changes {s t : State} (effect : RegisterEffect s t) :
    (t.hdr ≠ s.hdr → nextEvent s = .reset ∨ Runs s .clr ∨ Runs s .bld) ∧
    (t.hvalid ≠ s.hvalid → nextEvent s = .reset ∨ Runs s .clr ∨ Runs s .bld) ∧
    (t.hidx ≠ s.hidx → ((nextEvent s = .reset ∨ Runs s .clr ∨ Runs s .bld) ∧ t.hidx = 0) ∨
      (Runs s .emt ∧ t.hidx.val = s.hidx.val + 1)) := by
  cases effect with
  | cleared event regs =>
    have listed : nextEvent s = .reset ∨ Runs s .clr ∨ Runs s .bld := event.imp_right .inl
    exact ⟨fun _ => listed, fun _ => listed, fun _ => .inl ⟨listed, regs.hidx⟩⟩
  | wiped runs _ regs | latched runs _ regs =>
    exact ⟨fun _ => .inr (.inr runs), fun _ => .inr (.inr runs), fun _ => .inl ⟨.inr (.inr runs), regs.hidx⟩⟩
  | advanced runs _ room regs =>
    have next : t.hidx.val = s.hidx.val + 1 := regs.hidx ▸ advanceIndex_hidx_val_of_lt room
    exact ⟨absurd regs.hdr, absurd regs.hvalid, fun _ => .inr ⟨runs, next⟩⟩
  | absorbed _ _ regs | kept regs => exact ⟨absurd regs.hdr, absurd regs.hvalid, absurd regs.hidx⟩

/-! ## The invariants of R32 -/

/-- Without a header, R32 asks for a zero index and buffer, and for R32.4. -/
theorem registerInvariants_of_noHeader {s : State} (hvalid : s.hvalid = false) (hidx : s.hidx = 0)
    (hhdr : s.hdr = Vector.replicate 12 0x00) (saturated : s.ovf = true → s.len = Config.lenMax) :
    RegisterInvariants s where
  indexRange := Nat.le_of_lt_succ s.hidx.isLt
  unbuilt _ := ⟨hidx, hhdr⟩
  fixedBytes h := absurd h (by simp [hvalid])
  saturated := saturated
  built h := absurd h (by simp [hvalid])

/-- R32.5 gives R32.3: the magic value packs to its four bytes and the zero-extended checksum ends in three zeros. -/
theorem hdr_magic_fixedBytes (l : Word32) (c : Byte) :
    (hdr Config.magic l c)[0] = 0x42 ∧ (hdr Config.magic l c)[1] = 0x4F ∧ (hdr Config.magic l c)[2] = 0x4F ∧
    (hdr Config.magic l c)[3] = 0x54 ∧ (hdr Config.magic l c)[9] = 0x00 ∧ (hdr Config.magic l c)[10] = 0x00 ∧
    (hdr Config.magic l c)[11] = 0x00 := by
  have magic_bytes : le32 Config.magic = #v[0x42, 0x4F, 0x4F, 0x54] := by decide
  have first (k : Nat) (hk : k < 4) : (hdr Config.magic l c)[k] = #v[0x42, 0x4F, 0x4F, 0x54][k] := by
    simp only [hdr_getElem_first _ _ _ k hk, magic_bytes]
  obtain ⟨-, -, -, -, zeros⟩ := hdrConcatenatesTheThreeFields Config.magic l c
  exact ⟨first 0 (by decide), first 1 (by decide), first 2 (by decide), first 3 (by decide), zeros⟩

/-- With a header, R32 asks that it be `hdr(MAGIC, l, c)`, and for R32.4. -/
theorem registerInvariants_of_header {s : State} (hvalid : s.hvalid = true) {l : Word32} {c : Byte}
    (hhdr : s.hdr = hdr Config.magic l c) (saturated : s.ovf = true → s.len = Config.lenMax) :
    RegisterInvariants s where
  indexRange := Nat.le_of_lt_succ s.hidx.isLt
  unbuilt h := absurd h (by simp [hvalid])
  fixedBytes _ := by rw [hhdr]; exact hdr_magic_fixedBytes l c
  saturated := saturated
  built _ := ⟨l, c, hhdr⟩

/-- The invariants speak of the six registers alone. -/
theorem SameRegisters.registerInvariants {s t : State} (same : SameRegisters t s) (inv : RegisterInvariants s) :
    RegisterInvariants t := by
  have saturated : t.ovf = true → t.len = Config.lenMax := by
    rw [same.ovf, same.len]; exact inv.saturated
  cases hvalid : s.hvalid with
  | false =>
    obtain ⟨hidx, hhdr⟩ := inv.unbuilt hvalid
    exact registerInvariants_of_noHeader (same.hvalid.trans hvalid) (same.hidx.trans hidx) (same.hdr.trans hhdr)
      saturated
  | true =>
    obtain ⟨l, c, hhdr⟩ := inv.built hvalid
    exact registerInvariants_of_header (same.hvalid.trans hvalid) (same.hdr.trans hhdr) saturated

theorem reset_registerInvariants : RegisterInvariants State.reset :=
  registerInvariants_of_noHeader rfl rfl rfl nofun

/-- R82: where OVF implies a saturated LEN, it does so after one more byte. -/
theorem lenAfterByte_eq_lenMax {len : Word32} {ovf : Bool} (saturated : ovf = true → len = Config.lenMax)
    (h : ovfAfterByte len ovf = true) : lenAfterByte len = Config.lenMax := by
  have at_max : len = Config.lenMax := by
    by_contra ne
    exact ne (saturated (by rwa [ovfAfterByte, if_neg ne] at h))
  rw [lenAfterByte, if_pos at_max, at_max]

theorem absorb_registerInvariants {s : State} (b : Byte) (inv : RegisterInvariants s) :
    RegisterInvariants (absorb b s) where
  indexRange := inv.indexRange
  unbuilt := inv.unbuilt
  fixedBytes := inv.fixedBytes
  saturated := lenAfterByte_eq_lenMax inv.saturated
  built := inv.built

theorem advanceIndex_registerInvariants {s : State} (hvalid : s.hvalid = true) (inv : RegisterInvariants s) :
    RegisterInvariants (advanceIndex s) := by
  obtain ⟨l, c, hhdr⟩ := inv.built hvalid
  exact registerInvariants_of_header hvalid hhdr inv.saturated

theorem step_registerInvariants {s t : State} (inv : RegisterInvariants s) (h : step s = .next t) :
    RegisterInvariants t := by
  cases registerEffect_of_step h with
  | cleared _ regs => exact regs.registerInvariants reset_registerInvariants
  | absorbed b _ regs => exact regs.registerInvariants (absorb_registerInvariants b inv)
  | wiped _ _ regs => exact regs.registerInvariants (registerInvariants_of_noHeader rfl rfl rfl inv.saturated)
  | latched _ _ regs => exact regs.registerInvariants (registerInvariants_of_header rfl rfl inv.saturated)
  | advanced _ hvalid _ regs => exact regs.registerInvariants (advanceIndex_registerInvariants hvalid inv)
  | kept regs => exact regs.registerInvariants inv

/-- What every step keeps, every run keeps. -/
theorem runSteps_keeps {P : State → Prop} (keeps : ∀ s t, P s → step s = .next t → P t) (k : Nat) :
    ∀ {s t : State}, P s → runSteps k s = some t → P t := by
  induction k with
  | zero =>
    intro s t hs run
    cases run
    exact hs
  | succ k ih =>
    intro s t hs run
    obtain ⟨u, hstep⟩ := step_has_next s
    rw [runSteps_succ hstep] at run
    exact ih (keeps s u hs hstep) run

/-! ## The statements -/

/-- Settles O33: each operation of the access matrix keeps the invariants, hence every step and every run does. -/
theorem everyStepKeepsTheInvariants : Obligations.EveryStepKeepsTheInvariants := by
  unfold Obligations.EveryStepKeepsTheInvariants
  refine ⟨reset_registerInvariants, fun _ _ => step_registerInvariants, fun es k t run => ?_⟩
  have start : SameRegisters { State.reset with edges := es } State.reset := ⟨rfl, rfl, rfl, rfl, rfl, rfl⟩
  exact runSteps_keeps (fun _ _ => step_registerInvariants) k (start.registerInvariants reset_registerInvariants) run

/-- Settles O19: a step's one register operation writes only what the access matrix lists for its event. -/
theorem onlyTheListedEventsChangeARegister : Obligations.OnlyTheListedEventsChangeARegister := by
  unfold Obligations.OnlyTheListedEventsChangeARegister
  intro s t h
  obtain ⟨acc, len, ovf⟩ := (registerEffect_of_step h).payload_changes
  obtain ⟨hdr, hvalid, hidx⟩ := (registerEffect_of_step h).header_changes
  exact ⟨acc, len, ovf, hdr, hvalid, hidx⟩

/-- Settles O12: CLR writes every register, so nothing of the state before is left. -/
theorem clrLeavesTheResetRegisters : Obligations.ClrLeavesTheResetRegisters := by
  unfold Obligations.ClrLeavesTheResetRegisters
  intro s
  exact ⟨respond .ok 0x00 (clearRegisters s), rfl, rfl, rfl, rfl, rfl, rfl, rfl⟩

/-- Settles O31: the fields of the reset state, read off. -/
theorem resetStateHasTheResetValues : Obligations.ResetStateHasTheResetValues := by
  unfold Obligations.ResetStateHasTheResetValues
  exact ⟨rfl, rfl, rfl, fun i => Vector.getElem_replicate i.isLt, rfl, rfl, by decide⟩

/-- Settles O32: no header is built in the reset state, and OVF is 0. -/
theorem invariantsHoldAtReset : Obligations.InvariantsHoldAtReset := by
  unfold Obligations.InvariantsHoldAtReset
  exact reset_registerInvariants

end Sys2Proof.Machine
end

section
/-! PROOFS. What the model says in place of an addressed memory (spec/20_memory.md R44, R48): the order of the absorbed
bytes does not matter to the checksum, and repeating a command that only overwrites or reads does not matter to the
state. The statements O8 and O18. -/

namespace Sys2Proof.Machine

/-! ## Reordering and zero bytes in the checksum (R44, R88) -/

theorem sum8_eq_of_perm {bs cs : List Byte} (perm : bs.Perm cs) : sum8 bs = sum8 cs := by
  apply BitVec.eq_of_toNat_eq
  rw [sum8_toNat, sum8_toNat, (perm.map BitVec.toNat).sum_eq]

@[simp] theorem sum8_zero_cons (cs : List Byte) : sum8 (0x00 :: cs) = sum8 cs := by
  apply BitVec.eq_of_toNat_eq
  simp only [sum8_toNat, List.map_cons, List.sum_cons, BitVec.ofNat_eq_ofNat, BitVec.toNat_zero, Nat.zero_add]

/-- Settles O8: the sum of the bytes is commutative, and by additivity a zero byte at the head of the second part is a
zero byte anywhere. -/
theorem checksumIgnoresOrderAndZeroBytes : Obligations.ChecksumIgnoresOrderAndZeroBytes := by
  unfold Obligations.ChecksumIgnoresOrderAndZeroBytes
  refine ⟨fun _ _ => sum8_eq_of_perm, fun bs cs => ?_⟩
  apply BitVec.eq_of_toNat_eq
  rw [sum8_append_toNat, sum8_zero_cons, sum8_append_toNat]

/-! ## Commands that may be repeated (R48) -/

/-- R100: with OVF 1, BLD wipes the header registers and answers `ERR_OVERSIZE`. -/
theorem exec_bld_of_ovf {s : State} (ovf : s.ovf = true) :
    exec .bld s = .next (raise .oversize (wipeHeader s)) :=
  if_pos ovf

/-- R100: with OVF 0, BLD latches the header. -/
theorem exec_bld_of_not_ovf {s : State} (ovf : s.ovf = false) :
    exec .bld s = .next (respond .ok 0x00 (latchHeader s)) :=
  if_neg (Bool.eq_false_iff.mp ovf)

/-- A BLD leaves ACC, LEN and OVF, so a second one takes the same branch and writes the same header. -/
theorem exec_bld_again {s t : State} (h : exec .bld s = .next t) : exec .bld t = .next t := by
  cases ovf : s.ovf with
  | true =>
    cases (exec_bld_of_ovf ovf).symm.trans h
    exact exec_bld_of_ovf ovf
  | false =>
    cases (exec_bld_of_not_ovf ovf).symm.trans h
    exact exec_bld_of_not_ovf ovf

/-- Settles O18: CLR writes constants, RDC and RDS write no register, and BLD reads only what it does not write. -/
theorem clrBldRdcRdsAreIdempotent : Obligations.ClrBldRdcRdsAreIdempotent := by
  unfold Obligations.ClrBldRdcRdsAreIdempotent
  rintro i (rfl | rfl | rfl | rfl) s t h
  case inr.inl => exact exec_bld_again h
  all_goals cases h; rfl

end Sys2Proof.Machine
end

section
/-! PROOFS. The command encoding (spec/30_encoding.md R60 to R64, R76): `encode` is the one inverse of `decode`, said
once as `decode_eq_ok_iff`, and the statements O1 to O4. -/

namespace Sys2Proof

/-! ## The two fields of a word (R60) -/

theorem opField_append_immField (w : CmdWord) : opField w ++ immField w = w :=
  (BitVec.extractLsb'_append_extractLsb'_eq_extractLsb' rfl).trans BitVec.extractLsb'_eq_self

@[simp] theorem opField_encode (i : Instr) : opField (encode i) = i.opcode :=
  BitVec.extractLsb'_append_eq_left

@[simp] theorem immField_encode (i : Instr) : immField (encode i) = i.immediate :=
  BitVec.extractLsb'_append_eq_right

/-- A word is a command's when its two fields are. -/
theorem encode_eq_of_fields {w : CmdWord} {i : Instr} (op : opField w = i.opcode) (imm : immField w = i.immediate) :
    encode i = w := by
  rw [encode, ← op, ← imm, opField_append_immField]

/-! ## `decode` and `encode` (R64) -/

@[simp] theorem decode_encode (i : Instr) : decode (encode i) = .ok i := by
  cases i <;> simp [decode, Instr.opcode, Instr.immediate]

/-- The encoding is canonical: a word that decodes is the word of its command. -/
theorem encode_of_decode {w : CmdWord} {i : Instr} (h : decode w = .ok i) : encode i = w := by
  unfold decode at h
  split at h
  case isTrue op =>
    cases h
    exact encode_eq_of_fields op rfl
  case isFalse =>
    split at h
    case isTrue => cases h
    case isFalse imm =>
      have imm_zero : immField w = 0 := not_not.mp imm
      split_ifs at h with op op op op op
      all_goals
        cases h
        exact encode_eq_of_fields op imm_zero

theorem decode_eq_ok_iff {w : CmdWord} {i : Instr} : decode w = .ok i ↔ encode i = w :=
  ⟨encode_of_decode, fun h => h ▸ decode_encode i⟩

/-- The word as a number: `op` is its base-256 quotient and `imm8` the rest. -/
theorem decode_eq_ok_iff_toNat {w : CmdWord} {i : Instr} :
    decode w = .ok i ↔ w.toNat / 256 = i.opcode.toNat ∧ w.toNat % 256 = i.immediate.toNat := by
  have imm_lt := i.immediate.isLt
  rw [decode_eq_ok_iff, ← BitVec.toNat_inj, Laws.encode_toNat]
  omega

/-! ## The legal words (R63) -/

theorem legalWord_iff {w : CmdWord} :
    legalWord w = true ↔ w.toNat / 256 = 1 ∨ (w.toNat / 256 ≤ 5 ∧ w.toNat % 256 = 0) := by
  simp [legalWord]

theorem legalWord_encode (i : Instr) : legalWord (encode i) = true :=
  match i with
  | .clr => Laws.LegalEncoding.clr
  | .abs imm8 => Laws.LegalEncoding.abs imm8
  | .rdc => Laws.LegalEncoding.rdc
  | .bld => Laws.LegalEncoding.bld
  | .emt => Laws.LegalEncoding.emt
  | .rds => Laws.LegalEncoding.rds

/-- The five operations whose immediate must be zero, by their opcode. -/
theorem exists_instr_of_opcode {op : Nat} (le : op ≤ 5) (ne : op ≠ 1) :
    ∃ i : Instr, op = i.opcode.toNat ∧ 0 = i.immediate.toNat :=
  match op, le, ne with
  | 0, _, _ => ⟨.clr, rfl, rfl⟩
  | 2, _, _ => ⟨.rdc, rfl, rfl⟩
  | 3, _, _ => ⟨.bld, rfl, rfl⟩
  | 4, _, _ => ⟨.emt, rfl, rfl⟩
  | 5, _, _ => ⟨.rds, rfl, rfl⟩

theorem decode_abs_of_op {w : CmdWord} (op : w.toNat / 256 = 1) :
    decode w = .ok (.abs (BitVec.ofNat 8 (w.toNat % 256))) :=
  decode_eq_ok_iff_toNat.mpr ⟨op, by simp [Instr.immediate]⟩

theorem legalWord_iff_exists_decode {w : CmdWord} : legalWord w = true ↔ ∃ i, decode w = .ok i := by
  constructor
  · intro legal
    by_cases op : w.toNat / 256 = 1
    · exact ⟨_, decode_abs_of_op op⟩
    · obtain ⟨le, imm⟩ := (legalWord_iff.mp legal).resolve_left op
      obtain ⟨i, hop, himm⟩ := exists_instr_of_opcode le op
      exact ⟨i, decode_eq_ok_iff_toNat.mpr ⟨hop, imm.trans himm⟩⟩
  · rintro ⟨i, h⟩
    exact encode_of_decode h ▸ legalWord_encode i

theorem exists_decode_eq_error_iff {w : CmdWord} :
    (∃ e, decode w = .error e) ↔ ¬ (w.toNat / 256 = 1 ∨ (w.toNat / 256 ≤ 5 ∧ w.toNat % 256 = 0)) := by
  rw [← legalWord_iff, legalWord_iff_exists_decode]
  cases decode w <;> simp

theorem encode_abs_toNat (b : Byte) : (encode (.abs b)).toNat = 0x100 + b.toNat := by
  simp [Laws.encode_toNat, Instr.opcode, Instr.immediate]

/-- Settles O1: each line of R64 gives the two fields of one command's word, and the lines that give none are the words
that are not legal. -/
theorem decodeAndEncodeAgreeOnEveryCommand : Obligations.DecodeAndEncodeAgreeOnEveryCommand := by
  unfold Obligations.DecodeAndEncodeAgreeOnEveryCommand
  refine ⟨fun w => ?_, rfl, encode_abs_toNat, rfl, rfl, rfl, rfl, decode_encode⟩
  split_ifs with op imm clr rdc bld emt rds
  · exact decode_abs_of_op op
  · exact exists_decode_eq_error_iff.mpr (by omega)
  all_goals rw [not_not] at imm
  · exact decode_eq_ok_iff_toNat.mpr ⟨clr, imm⟩
  · exact decode_eq_ok_iff_toNat.mpr ⟨rdc, imm⟩
  · exact decode_eq_ok_iff_toNat.mpr ⟨bld, imm⟩
  · exact decode_eq_ok_iff_toNat.mpr ⟨emt, imm⟩
  · exact decode_eq_ok_iff_toNat.mpr ⟨rds, imm⟩
  · exact exists_decode_eq_error_iff.mpr (by omega)

/-! ## Counting the legal words, one block of 256 words for each `op` -/

/-- A count over `m` blocks of `n` numbers is the sum of the counts over the blocks. -/
theorem countP_range_blocks (p : Nat → Bool) (m n : Nat) :
    (List.range (m * n)).countP p =
      ((List.range m).map fun block => (List.range n).countP fun k => p (block * n + k)).sum := by
  induction m with
  | zero => simp
  | succ m ih =>
    have last_block : ((List.range n).map (m * n + ·)).countP p = (List.range n).countP fun k => p (m * n + k) :=
      List.countP_map
    rw [Nat.succ_mul, List.range_add, List.countP_append, ih, last_block, List.range_succ, List.map_append,
      List.sum_append, List.map_singleton, List.sum_singleton]

/-- How many words with this `op` are legal (R63). -/
def legalCount (op : Nat) : Nat := if op = 1 then 256 else if op ≤ 5 then 1 else 0

/-- The legality of a word by its `op` and `imm8`. -/
theorem legalWord_ofNat_fields {op imm : Nat} (hop : op < 8) (himm : imm < 256) :
    legalWord (BitVec.ofNat 11 (op * 256 + imm)) = (op == 1 || (op ≤ 5 && imm == 0)) := by
  have toNat_word : (BitVec.ofNat 11 (op * 256 + imm)).toNat = op * 256 + imm := by
    rw [BitVec.toNat_ofNat, Nat.mod_eq_of_lt (by omega)]
  have quotient : (op * 256 + imm) / 256 = op := by omega
  have rest : (op * 256 + imm) % 256 = imm := by omega
  rw [legalWord, toNat_word, quotient, rest]

theorem countP_legal_block {op : Nat} (hop : op < 8) :
    (List.range 256).countP (fun imm => legalWord (BitVec.ofNat 11 (op * 256 + imm))) = legalCount op := by
  have by_fields : (List.range 256).countP (fun imm => legalWord (BitVec.ofNat 11 (op * 256 + imm))) =
      (List.range 256).countP (fun imm => op == 1 || (op ≤ 5 && imm == 0)) :=
    List.countP_congr fun imm h => by rw [legalWord_ofNat_fields hop (List.mem_range.mp h)]
  rw [by_fields, legalCount]
  split_ifs with abs le
  · exact (List.countP_eq_length.mpr fun _ _ => by simp [abs]).trans List.length_range
  · have zero_alone : (fun imm : Nat => op == 1 || (op ≤ 5 && imm == 0)) = (· == 0) := by
      simp [beq_false_of_ne abs, le]
    rw [zero_alone]
    exact List.count_eq_one_of_mem List.nodup_range (List.mem_range.mpr (by decide))
  · exact List.countP_eq_zero.mpr fun _ _ => by simp [abs, le]

theorem countP_illegal_block {op : Nat} (hop : op < 8) :
    (List.range 256).countP (fun imm => !legalWord (BitVec.ofNat 11 (op * 256 + imm))) = 256 - legalCount op := by
  have parts := List.length_eq_countP_add_countP (l := List.range 256)
    fun imm => legalWord (BitVec.ofNat 11 (op * 256 + imm))
  simp only [List.length_range, countP_legal_block hop, Bool.not_eq_true, Bool.decide_eq_false] at parts
  omega

theorem countP_legal :
    (List.range 2048).countP (fun n => legalWord (BitVec.ofNat 11 n)) = ((List.range 8).map legalCount).sum := by
  refine (countP_range_blocks _ 8 256).trans (congrArg List.sum (List.map_congr_left fun op h => ?_))
  exact countP_legal_block (List.mem_range.mp h)

/-- The illegal words whose `op` is among those that `q` names. -/
theorem countP_illegal (q : Nat → Bool) :
    (List.range 2048).countP (fun n => !legalWord (BitVec.ofNat 11 n) && q (n / 256)) =
      ((List.range 8).map fun op => if q op then 256 - legalCount op else 0).sum := by
  refine (countP_range_blocks _ 8 256).trans (congrArg List.sum (List.map_congr_left fun op h => ?_))
  have by_op : (List.range 256).countP
        (fun imm => !legalWord (BitVec.ofNat 11 (op * 256 + imm)) && q ((op * 256 + imm) / 256)) =
      (List.range 256).countP (fun imm => !legalWord (BitVec.ofNat 11 (op * 256 + imm)) && q op) := by
    refine List.countP_congr fun imm himm => ?_
    have quotient : (op * 256 + imm) / 256 = op := by have := List.mem_range.mp himm; omega
    rw [quotient]
  rw [by_op, ← countP_illegal_block (List.mem_range.mp h)]
  cases q op <;> simp

/-- Settles O2: the legal words are the encodings, and each block of 256 words with one `op` is counted by R63's
rule. -/
theorem legalWordsAreExactlyTheEncodings : Obligations.LegalWordsAreExactlyTheEncodings := by
  unfold Obligations.LegalWordsAreExactlyTheEncodings
  exact ⟨fun _ => legalWord_iff_exists_decode, fun _ _ => encode_of_decode,
    fun _ _ _ hw hv => (encode_of_decode hw).symm.trans (encode_of_decode hv), countP_legal.trans (by decide),
    (countP_illegal (6 ≤ ·)).trans (by decide), (countP_illegal (· < 6)).trans (by decide)⟩

/-! ## The opcode table (R76) -/

/-- A row with the mask `0x7FF` is selected by its one word. -/
theorem selectedBy_full_mask (m : Mnemonic) (pattern w : CmdWord) :
    OpcodeRow.selectedBy ⟨m, pattern, 0x7FF⟩ w = true ↔ w = pattern := by
  have full : w &&& 0x7FF = w := BitVec.and_allOnes
  rw [OpcodeRow.selectedBy, beq_iff_eq, full]

/-- The mask `0x700` keeps `op` and drops `imm8`. -/
theorem and_op_mask (w : CmdWord) : w &&& 0x700 = opField w ++ (0 : Byte) := by
  have mask : (0x700 : CmdWord) = BitVec.allOnes 3 ++ (0 : Byte) := rfl
  conv_lhs => rw [← opField_append_immField w, mask, BitVec.and_append, BitVec.and_allOnes]
  simp

/-- A row with the mask `0x700` and the pattern `0x100` is selected by the words with `op` 1. -/
theorem selectedBy_op_mask (m : Mnemonic) (w : CmdWord) :
    OpcodeRow.selectedBy ⟨m, 0x100, 0x700⟩ w = true ↔ opField w = 1 := by
  have pattern : (0x100 : CmdWord) = (1 : BitVec 3) ++ (0 : Byte) := rfl
  rw [OpcodeRow.selectedBy, beq_iff_eq, and_op_mask, pattern]
  constructor
  · intro h
    simpa only [opField, BitVec.extractLsb'_append_eq_left] using congrArg opField h
  · exact fun h => by rw [h]

/-- Only ABS has more than one command to its mnemonic. -/
theorem Instr.eq_of_mnemonic_eq {i j : Instr} (h : j.mnemonic = i.mnemonic) (not_abs : i.mnemonic ≠ .abs) : j = i := by
  cases i with
  | abs => exact absurd rfl not_abs
  | clr | rdc | bld | emt | rds =>
    cases j <;> cases h
    rfl

/-- The row of a command without an operand is selected by that command's word. -/
theorem selectedBy_operandless_row {i : Instr} (not_abs : i.mnemonic ≠ .abs) (w : CmdWord) :
    OpcodeRow.selectedBy ⟨i.mnemonic, encode i, 0x7FF⟩ w = true ↔
      ∃ j : Instr, decode w = .ok j ∧ j.mnemonic = i.mnemonic := by
  rw [selectedBy_full_mask]
  constructor
  · rintro rfl
    exact ⟨i, decode_encode i, rfl⟩
  · rintro ⟨j, h, same⟩
    rw [← encode_of_decode h, Instr.eq_of_mnemonic_eq same not_abs]

/-- The row of ABS is selected by the words that decode to an ABS. -/
theorem selectedBy_abs_row (w : CmdWord) :
    OpcodeRow.selectedBy ⟨.abs, 0x100, 0x700⟩ w = true ↔ ∃ j : Instr, decode w = .ok j ∧ j.mnemonic = .abs := by
  rw [selectedBy_op_mask]
  constructor
  · exact fun op => ⟨.abs (immField w), decode_eq_ok_iff.mpr (encode_eq_of_fields op rfl), rfl⟩
  · rintro ⟨_ | imm8 | _ | _ | _ | _, h, same⟩ <;> cases same
    rw [← encode_of_decode h]
    exact opField_encode (.abs imm8)

/-- A row of the table is selected by the words of the commands with the row's mnemonic. -/
theorem selectedBy_iff {r : OpcodeRow} (h : r ∈ opcodeTable) {w : CmdWord} :
    r.selectedBy w = true ↔ ∃ i : Instr, decode w = .ok i ∧ i.mnemonic = r.mnemonic := by
  simp only [opcodeTable, List.mem_cons, List.not_mem_nil, or_false] at h
  obtain rfl | rfl | rfl | rfl | rfl | rfl := h
  · exact selectedBy_operandless_row (i := .clr) nofun w
  · exact selectedBy_abs_row w
  · exact selectedBy_operandless_row (i := .rdc) nofun w
  · exact selectedBy_operandless_row (i := .bld) nofun w
  · exact selectedBy_operandless_row (i := .emt) nofun w
  · exact selectedBy_operandless_row (i := .rds) nofun w

theorem exists_row_of_mnemonic (m : Mnemonic) : ∃ r ∈ opcodeTable, r.mnemonic = m := by
  cases m <;> decide

theorem row_eq_of_mnemonic_eq : ∀ r ∈ opcodeTable, ∀ q ∈ opcodeTable, r.mnemonic = q.mnemonic → r = q := by
  decide

/-- Settles O3: the rows that a word selects are those with the mnemonic of its command, of which there is one. -/
theorem opcodeTableSelectsTheDecodedRow : Obligations.OpcodeTableSelectsTheDecodedRow := by
  unfold Obligations.OpcodeTableSelectsTheDecodedRow
  refine ⟨fun w r q hr hq selects_r selects_q => ?_, fun w i h => ?_, fun w e h r hr => ?_⟩
  · obtain ⟨i, decodes_i, i_row⟩ := (selectedBy_iff hr).mp selects_r
    obtain ⟨j, decodes_j, j_row⟩ := (selectedBy_iff hq).mp selects_q
    cases decodes_i.symm.trans decodes_j
    exact row_eq_of_mnemonic_eq r hr q hq (i_row.symm.trans j_row)
  · obtain ⟨r, hr, row⟩ := exists_row_of_mnemonic i.mnemonic
    exact ⟨r, hr, (selectedBy_iff hr).mpr ⟨i, h, row.symm⟩, row⟩
  · refine Bool.eq_false_iff.mpr fun selects => ?_
    obtain ⟨i, decodes, -⟩ := (selectedBy_iff hr).mp selects
    cases h.symm.trans decodes

/-- Settles O4: the nine words, each evaluated. -/
theorem writtenWordsDecodeToTheirCommands : Obligations.WrittenWordsDecodeToTheirCommands := by
  unfold Obligations.WrittenWordsDecodeToTheirCommands
  decide

end Sys2Proof
end

section
/-! PROOFS. Responses, the port and the frame (spec/30_encoding.md R65, R66, R71, R76): what a command's edge does and
what a response carries, and the statements O9, O22, O23, O24 and O25. -/

namespace Sys2Proof.Machine

/-! ## The response to a command (R65) -/

/-- R65: `code` above `data`. -/
theorem Response.word_toNat (r : Response) : r.word.toNat = 256 * r.code.bits.toNat + r.data.toNat := by
  have data_lt : r.data.toNat < 2 ^ 8 := r.data.isLt
  rw [Response.word, BitVec.toNat_append, Nat.shiftLeft_eq, Nat.mul_comm, ← Nat.two_pow_add_eq_or_of_lt data_lt]

/-- R65: a command that is to answer no byte, or answers an error, answers data `0x00`. -/
theorem exec_data_eq_zero {i : Instr} {s t : State} (h : exec i s = .next t)
    (no_byte : i = .clr ∨ (∃ b, i = .abs b) ∨ i = .bld ∨ t.rsp.code ≠ .ok) : t.rsp.data = 0x00 := by
  obtain ⟨rfl, rfl⟩ | ⟨b, rfl, rfl⟩ | ⟨rfl, rfl⟩ | ⟨rfl, -, rfl⟩ | ⟨rfl, -, rfl⟩ | ⟨b, rfl, -, rfl⟩ | ⟨rfl, -, rfl⟩ |
    ⟨rfl, rfl⟩ := exec_cases h
  · rfl
  · rfl
  · simp at no_byte
  · rfl
  · rfl
  · simp at no_byte
  · rfl
  · simp at no_byte

/-- R66: `rsp_valid` is 1 after exactly the steps that run a command word. -/
theorem step_rspValid_iff {s t : State} (h : step s = .next t) :
    t.rspValid = true ↔ ∃ w, nextEvent s = .command w := by
  obtain ⟨event, rfl⟩ | ⟨event, rfl⟩ | ⟨w, i, event, -, h⟩ | ⟨w, e, event, -, rfl⟩ := step_cases h
  · simp [event]
  · simp [event]
  · simp [event, (exec_port h).1]
  · simp [event]

/-- Settles O22: each response is made by one command or by the illegal-word case, and only RDC, EMT and RDS put a byte
in it. -/
theorem everyCommandAnswersOneResponse : Obligations.EveryCommandAnswersOneResponse := by
  unfold Obligations.EveryCommandAnswersOneResponse
  refine ⟨Response.word_toNat, fun _ _ => step_rspValid_iff, fun s t w event h no_byte => ?_⟩
  obtain ⟨reset, -⟩ | ⟨idle, -⟩ | ⟨v, i, event', decoded, h⟩ | ⟨v, e, -, -, rfl⟩ := step_cases h
  · cases event.symm.trans reset
  · cases event.symm.trans idle
  · cases event.symm.trans event'
    exact exec_data_eq_zero h (by simpa [decoded] using no_byte)
  · rfl

/-- Settles O23: a reset edge and an idle edge write `rsp_valid` and leave `rsp`. -/
theorem responseIsHeldUntilTheNextCommand : Obligations.ResponseIsHeldUntilTheNextCommand := by
  unfold Obligations.ResponseIsHeldUntilTheNextCommand
  intro s t no_command h
  obtain ⟨-, rfl⟩ | ⟨-, rfl⟩ | ⟨w, i, event, -, -⟩ | ⟨w, e, event, -, -⟩ := step_cases h
  · rfl
  · rfl
  · exact absurd event (no_command w)
  · exact absurd event (no_command w)

/-! ## The edge of a command (R66) -/

/-- The step at an edge that presents a word of the command `i` is `exec i`. -/
theorem step_of_decode {s : State} {p : PortIn} {es : List PortIn} {w : CmdWord} {i : Instr}
    (edges : s.edges = p :: es) (event : p.event = .command w) (decoded : decode w = .ok i) :
    step s = exec i (passEdge s) := by
  rw [step_command edges event, decoded]

theorem passEdge_of_edges {s : State} {p : PortIn} {es : List PortIn} (edges : s.edges = p :: es) :
    passEdge s = { s with edges := es } := by
  rw [passEdge, edges, List.tail_cons]

/-- Settles O24: with `rst` 0 and `cmd_valid` 1 the edge's event is its word. -/
theorem stepRunsTheDecodedCommand : Obligations.StepRunsTheDecodedCommand := by
  unfold Obligations.StepRunsTheDecodedCommand
  intro s p es i edges no_reset valid decoded
  have event : p.event = .command p.cmd := by simp [PortIn.event, no_reset, valid]
  rw [step_of_decode edges event decoded, passEdge_of_edges edges]

/-- A table number decodes through its command word. -/
theorem decodeTableWord_eq_some_iff {nbits w : Nat} {i : Instr} :
    decodeTableWord nbits w = some i ↔ ∃ word, tableWord nbits w = some word ∧ decode word = .ok i := by
  rw [decodeTableWord, Option.bind_eq_some_iff]
  exact exists_congr fun word => and_congr_right fun _ => by cases decode word <;> simp [Except.toOption]

/-- Settles O25: the word of the table number is put in front of the edges to come, and the step passes it. -/
theorem withFetchWordRunsTheTableWord : Obligations.WithFetchWordRunsTheTableWord := by
  unfold Obligations.WithFetchWordRunsTheTableWord
  intro s nbits w i h
  obtain ⟨word, table, decoded⟩ := decodeTableWord_eq_some_iff.mp h
  have presented : s.withFetchWord nbits w = { s with edges := commandEdge word :: s.edges } := by
    rw [State.withFetchWord, table]; rfl
  rw [presented]
  exact step_of_decode rfl (commandEdge_event word) decoded

/-! ## The frame (R71) -/

theorem frame_of_length_le {bs : List Byte} (h : bs.length ≤ 0xFFFFFFFF) :
    frame bs = .ok ((hdr Config.magic (BitVec.ofNat 32 bs.length) (sum8 bs)).toList ++ bs) := by
  rw [frame, buildHeader_of_length_le h]; rfl

/-- Settles O9: the frame is the twelve bytes and the payload, and the twelve bytes decode to the payload's length and
checksum. -/
theorem faithfulFrameMatchesItsHeader : Obligations.FaithfulFrameMatchesItsHeader := by
  unfold Obligations.FaithfulFrameMatchesItsHeader
  rintro bs _ rfl fits
  have decoded := decodeHeader_hdr_of_length_le fits
  refine ⟨_, _, frame_of_length_le fits, buildHeader_of_length_le fits, ?_, ?_, ?_, ?_, ?_⟩
  · rw [List.length_append, Vector.length_toList]
  · exact List.take_left' Vector.length_toList
  · exact List.drop_left' Vector.length_toList
  · rw [decoded]
  · rw [decoded]

end Sys2Proof.Machine
end

section
/-! PROOFS. The assembler's lines and listing (spec/30_encoding.md R72 to R75): which lines produce words, what the text
of a word reads back as, and the statements O42 and O43. -/

namespace Sys2Proof.Machine

/-! ## Which lines produce words (R72, R74, R75) -/

theorem exists_map_eq_ok_iff {ε α β : Type} {e : Except ε α} {f : α → β} :
    (∃ y, e.map f = .ok y) ↔ ∃ x, e = .ok x := by
  cases e <;> simp [Except.map]

theorem byteOperand_of_lt {n : Nat} (h : n < 256) : byteOperand n = .ok (BitVec.ofNat 8 n) :=
  if_pos h

theorem byteOperand_of_not_lt {n : Nat} (h : ¬ n < 256) : byteOperand n = .error .operandRange :=
  if_neg h

@[simp] theorem byteOperand_toNat (b : Byte) : byteOperand b.toNat = .ok b := by
  rw [byteOperand_of_lt b.isLt, BitVec.ofNat_toNat, BitVec.setWidth_eq]

theorem exists_byteOperand_eq_ok_iff {n : Nat} : (∃ b, byteOperand n = .ok b) ↔ n < 256 := by
  by_cases h : n < 256
  · simp [byteOperand_of_lt h, h]
  · simp [byteOperand_of_not_lt h, h]

/-- R75: a payload is read byte by byte. -/
theorem exists_byteOperands_eq_ok_iff {payload : List Nat} :
    (∃ bs, byteOperands payload = .ok bs) ↔ payloadWellFormed payload = true := by
  induction payload with
  | nil => simp [byteOperands, payloadWellFormed]
  | cons n rest ih =>
    have cons_iff : payloadWellFormed (n :: rest) = true ↔ n < 256 ∧ payloadWellFormed rest = true := by
      simp [payloadWellFormed]
    rw [cons_iff, ← ih, ← exists_byteOperand_eq_ok_iff, byteOperands]
    cases byteOperand n <;> cases byteOperands rest <;> simp [bind, Except.bind, pure, Except.pure]

@[simp] theorem byteOperands_map_toNat (bs : List Byte) : byteOperands (bs.map BitVec.toNat) = .ok bs := by
  induction bs with
  | nil => rfl
  | cons b bs ih => rw [List.map_cons, byteOperands, byteOperand_toNat, ih]; rfl

/-- R72: a mnemonic and its operand stand for a command exactly when the operand is the one the command takes. -/
theorem exists_commandOf_eq_ok_iff {m : Mnemonic} {operand : Option Nat} :
    (∃ i, commandOf m operand = .ok i) ↔ operandWellFormed m operand = true := by
  cases operand with
  | none => cases m <;> simp [commandOf, operandWellFormed]
  | some n =>
    cases m with
    | abs => simp [commandOf, operandWellFormed, exists_map_eq_ok_iff, exists_byteOperand_eq_ok_iff]
    | clr | rdc | bld | emt | rds => simp [commandOf, operandWellFormed]

/-- Settles O42: each form of line produces words exactly when its own literals are read. -/
theorem assemblerAcceptsExactlyWellFormedLines : Obligations.AssemblerAcceptsExactlyWellFormedLines := by
  unfold Obligations.AssemblerAcceptsExactlyWellFormedLines
  intro line
  cases line with
  | blank => exact ⟨fun _ => rfl, fun _ => ⟨[], rfl⟩⟩
  | command m operand times => exact exists_map_eq_ok_iff.trans exists_commandOf_eq_ok_iff
  | word value =>
    by_cases h : value < 2048
    · simp [assemble, AsmLine.wellFormed, h]
    · simp [assemble, AsmLine.wellFormed, h]
  | checksum payload => exact exists_map_eq_ok_iff.trans exists_byteOperands_eq_ok_iff
  | buildHeader payload => exact exists_map_eq_ok_iff.trans exists_byteOperands_eq_ok_iff

/-! ## Hexadecimal text -/

theorem hexDigit_mod (n : Nat) : hexDigit (n % 16) = hexDigit n := by
  rw [hexDigit, hexDigit, Nat.mod_mod]

theorem digitValue_hexDigit (n : Nat) : digitValue (hexDigit n) = some (n % 16) := by
  have below_16 : ∀ d < 16, digitValue (hexDigit d) = some d := by decide
  rw [← hexDigit_mod, below_16 _ (Nat.mod_lt n (by decide))]

@[simp] theorem hexText_length (k n : Nat) : (hexText k n).length = k := by
  induction k generalizing n with
  | zero => rfl
  | succ k ih => rw [hexText, List.length_append, ih, List.length_singleton]

/-- Reading two runs of digits is reading the first and going on from its value. -/
theorem readDigits_append (base value : Nat) (xs ys : List Char) :
    readDigits base value (xs ++ ys) = (readDigits base value xs).bind fun v => readDigits base v ys := by
  induction xs generalizing value with
  | nil => rfl
  | cons c xs ih =>
    rw [List.cons_append, readDigits, readDigits]
    split
    · split
      · exact ih _
      · rfl
    · rfl

/-- `k` hexadecimal digits read back as the number modulo `16 ^ k`. -/
theorem readDigits_hexText (k n : Nat) : readDigits 16 0 (hexText k n) = some (n % 16 ^ k) := by
  induction k generalizing n with
  | zero => simp [hexText, readDigits, Nat.mod_one]
  | succ k ih =>
    have digits : 16 * (n / 16 % 16 ^ k) + n % 16 = n % 16 ^ (k + 1) := by
      rw [Nat.pow_succ', Nat.mod_mul, Nat.add_comm]
    rw [hexText, readDigits_append, ih]
    simp [readDigits, digitValue_hexDigit, Nat.mod_lt, digits]

theorem readNumber_hexText {k n : Nat} (pos : 0 < k) (fits : n < 16 ^ k) : readNumber 16 (hexText k n) = .ok n := by
  have not_empty : ¬ (hexText k n).isEmpty = true := by
    rw [List.isEmpty_iff_length_eq_zero, hexText_length]
    exact pos.ne'
  rw [readNumber, if_neg not_empty, readDigits_hexText, Nat.mod_eq_of_lt fits]

/-! ## Reading a line of two words -/

/-- A word of a line: no space and no comment sign in it. -/
def PlainWord (word : List Char) : Prop := ∀ c ∈ word, c ≠ ' ' ∧ c ≠ ';'

theorem hexDigit_plain (n : Nat) : hexDigit n ≠ ' ' ∧ hexDigit n ≠ ';' := by
  have below_16 : ∀ d < 16, hexDigit d ≠ ' ' ∧ hexDigit d ≠ ';' := by decide
  rw [← hexDigit_mod]
  exact below_16 _ (Nat.mod_lt n (by decide))

theorem hexText_plain (k n : Nat) : PlainWord (hexText k n) := by
  induction k generalizing n with
  | zero => exact nofun
  | succ k ih =>
    intro c h
    rw [hexText, List.mem_append, List.mem_singleton] at h
    obtain h | rfl := h
    · exact ih _ c h
    · exact hexDigit_plain n

theorem PlainWord.append {xs ys : List Char} (hx : PlainWord xs) (hy : PlainWord ys) : PlainWord (xs ++ ys) :=
  fun c h => (List.mem_append.mp h).elim (hx c) (hy c)

theorem Mnemonic.text_plain (m : Mnemonic) : PlainWord (Mnemonic.text m) := by
  cases m <;> simp [PlainWord, Mnemonic.text]

theorem wordDirective_plain : PlainWord wordDirective := by
  simp [PlainWord, wordDirective]

/-- A line with no comment that does not end in a space is read as it stands. -/
theorem withoutComment_concat {line : List Char} {last : Char} (no_comment : ∀ c ∈ line ++ [last], c ≠ ';')
    (hlast : last ≠ ' ') : withoutComment (line ++ [last]) = line ++ [last] := by
  have whole : (line ++ [last]).takeWhile (· ≠ ';') = line ++ [last] :=
    List.takeWhile_eq_self_iff.mpr fun c h => decide_eq_true (no_comment c h)
  rw [withoutComment, whole, List.reverse_append, List.reverse_singleton, List.singleton_append,
    List.dropWhile_cons_of_neg (by simpa using hlast), List.reverse_cons, List.reverse_reverse]

theorem splitSpaces_plain {word : List Char} (h : PlainWord word) : splitSpaces word = [word] := by
  induction word with
  | nil => rfl
  | cons c word ih =>
    obtain ⟨hc, hword⟩ := List.forall_mem_cons.mp h
    rw [splitSpaces, if_neg hc.1, ih hword]

theorem splitSpaces_plain_append {word : List Char} (h : PlainWord word) (rest : List Char) :
    splitSpaces (word ++ ' ' :: rest) = word :: splitSpaces rest := by
  induction word with
  | nil => rfl
  | cons c word ih =>
    obtain ⟨hc, hword⟩ := List.forall_mem_cons.mp h
    rw [List.cons_append, splitSpaces, if_neg hc.1, ih hword]

/-- The two words of a line. -/
theorem splitSpaces_withoutComment_pair {head operand : List Char} (hhead : PlainWord head)
    (hoperand : PlainWord operand) (ne : operand ≠ []) :
    splitSpaces (withoutComment (head ++ ' ' :: operand)) = [head, operand] := by
  have no_comment : ∀ c ∈ head ++ ' ' :: operand, c ≠ ';' := by
    intro c h
    rw [List.mem_append, List.mem_cons] at h
    obtain h | rfl | h := h
    · exact (hhead c h).2
    · decide
    · exact (hoperand c h).2
  have read_whole : withoutComment (head ++ ' ' :: operand) = head ++ ' ' :: operand := by
    obtain ⟨front, last, rfl⟩ := (List.eq_nil_or_concat operand).resolve_left ne
    have hlast : last ≠ ' ' := (hoperand last (by simp)).1
    rw [List.concat_eq_append, ← List.cons_append, ← List.append_assoc] at no_comment ⊢
    exact withoutComment_concat no_comment hlast
  rw [read_whole, splitSpaces_plain_append hhead, splitSpaces_plain hoperand]

/-! ## The text of a word (R72 to R74) -/

/-- A hexadecimal literal. -/
def hexLiteral (k n : Nat) : List Char := '0' :: 'x' :: hexText k n

theorem hexLiteral_plain (k n : Nat) : PlainWord (hexLiteral k n) :=
  PlainWord.append (xs := ['0', 'x']) (by simp [PlainWord]) (hexText_plain k n)

/-- A line of one word and a hexadecimal literal. -/
theorem splitSpaces_withoutComment_hexLiteral {head : List Char} (hhead : PlainWord head) (k n : Nat) :
    splitSpaces (withoutComment (head ++ [' ', '0', 'x'] ++ hexText k n)) = [head, hexLiteral k n] := by
  have pair : head ++ [' ', '0', 'x'] ++ hexText k n = head ++ ' ' :: hexLiteral k n := List.append_assoc ..
  rw [pair]
  exact splitSpaces_withoutComment_pair hhead (hexLiteral_plain k n) (List.cons_ne_nil _ _)

/-- R72: one literal after a mnemonic is its operand. -/
theorem readTail_hexLiteral {k n : Nat} (pos : 0 < k) (fits : n < 16 ^ k) :
    readTail [hexLiteral k n] = .ok (some n, 1) := by
  have value : readLiteral (hexLiteral k n) = .ok n := readNumber_hexText pos fits
  have alone : readTail [hexLiteral k n] = (readLiteral (hexLiteral k n)).map fun n => (some n, 1) := rfl
  rw [alone, value]
  rfl

theorem readLine_instrText_abs (b : Byte) : readLine (instrText (.abs b)) = .ok (.command .abs (some b.toNat) 1) := by
  have words : splitSpaces (withoutComment (instrText (.abs b))) = [Mnemonic.text .abs, hexLiteral 2 b.toNat] :=
    splitSpaces_withoutComment_hexLiteral (Mnemonic.text_plain .abs) 2 b.toNat
  have tail : readTail [hexLiteral 2 b.toNat] = .ok (some b.toNat, 1) := readTail_hexLiteral (by decide) b.isLt
  have mnemonic : readMnemonic (Mnemonic.text .abs) = .ok .abs := by decide
  rw [readLine, words]
  change (do
    let m ← readMnemonic (Mnemonic.text .abs)
    let rest ← readTail [hexLiteral 2 b.toNat]
    return AsmLine.command m rest.1 rest.2) = _
  rw [mnemonic, tail]
  rfl

theorem readLine_word {k n : Nat} (pos : 0 < k) (fits : n < 16 ^ k) :
    readLine (wordDirective ++ [' ', '0', 'x'] ++ hexText k n) = .ok (.word n) := by
  have words := splitSpaces_withoutComment_hexLiteral wordDirective_plain k n
  have operand : readWordOperand [hexLiteral k n] = .ok n := readNumber_hexText pos fits
  rw [readLine, words]
  change (readWordOperand [hexLiteral k n]).map AsmLine.word = _
  rw [operand]
  rfl

/-- R72: a command's text assembles to its word. -/
theorem assembleText_instrText (i : Instr) : assembleText (instrText i) = .ok [encode i] := by
  cases i with
  | abs b =>
    rw [assembleText, readLine_instrText_abs]
    simp [Except.bind, assemble, commandOf, Except.map]
  | clr | rdc | bld | emt | rds => decide

/-- R74: an illegal word is written by its number. -/
theorem assembleText_wordText (w : CmdWord) : assembleText (wordText w) = .ok [w] := by
  rw [wordText]
  split
  next i h => rw [assembleText_instrText, encode_of_decode h]
  next e h =>
    rw [assembleText, readLine_word (by decide) (w.isLt.trans (by decide))]
    simp [Except.bind, assemble, w.isLt]

/-- Settles O43: a word's text is two words of hexadecimal digits and letters, read back digit by digit, and the listing
puts the word's own three digits before it. -/
theorem listedTextAssemblesToItsWord : Obligations.ListedTextAssemblesToItsWord := by
  unfold Obligations.ListedTextAssemblesToItsWord
  exact fun w => ⟨assembleText_wordText w, hexText 3 w.toNat, hexText_length 3 w.toNat,
    readNumber_hexText (by decide) (w.isLt.trans (by decide)), rfl⟩

end Sys2Proof.Machine
end

section
/-! PROOFS. Runs of commands, one edge each (spec/30_encoding.md R75, spec/40_checksum.md R90, spec/41_header.md R103,
R104): what a payload, a BLD and the EMTs after it answer, and the statements O39 and O44. -/

namespace Sys2Proof.Machine

@[simp] theorem commandEdges_nil : commandEdges [] = [] := rfl

@[simp] theorem commandEdges_cons (i : Instr) (is : List Instr) :
    commandEdges (i :: is) = commandEdge (encode i) :: commandEdges is := rfl

@[simp] theorem commandEdges_append (is js : List Instr) :
    commandEdges (is ++ js) = commandEdges is ++ commandEdges js :=
  List.map_append

/-! ## Runs through a list of commands -/

/-- From `s`, whose next edges present the commands `is`, the run through them answers `rs` and leads to `t`. -/
structure CommandRun (is : List Instr) (rs : List Response) (s t : State) : Prop where
  edges : s.edges = commandEdges is ++ t.edges
  steps : runSteps is.length s = some t
  answers : responses is.length s = rs

/-- The responses of a run are those of its first `j` edges and those from the state after them. -/
theorem responses_add {j : Nat} {s t : State} (h : runSteps j s = some t) (k : Nat) :
    responses (j + k) s = responses j s ++ responses k t := by
  induction j generalizing s with
  | zero => cases h; rw [Nat.zero_add]; rfl
  | succ j ih =>
    obtain ⟨u, hstep⟩ := step_has_next s
    rw [runSteps_succ hstep] at h
    rw [Nat.add_right_comm, responses_succ hstep, responses_succ hstep, ih h, List.append_assoc]

theorem runSteps_add {j : Nat} {s t : State} (h : runSteps j s = some t) (k : Nat) :
    runSteps (j + k) s = runSteps k t := by
  induction j generalizing s with
  | zero => cases h; rw [Nat.zero_add]
  | succ j ih =>
    obtain ⟨u, hstep⟩ := step_has_next s
    rw [runSteps_succ hstep] at h
    rw [Nat.add_right_comm, runSteps_succ hstep, ih h]

theorem CommandRun.nil (s : State) : CommandRun [] [] s s := ⟨rfl, rfl, rfl⟩

theorem CommandRun.append {is js : List Instr} {rs qs : List Response} {s t u : State} (first : CommandRun is rs s t)
    (second : CommandRun js qs t u) : CommandRun (is ++ js) (rs ++ qs) s u where
  edges := by rw [first.edges, second.edges, commandEdges_append, List.append_assoc]
  steps := by rw [List.length_append, runSteps_add first.steps, second.steps]
  answers := by rw [List.length_append, responses_add first.steps, first.answers, second.answers]

/-- One command: its step is `exec`, and it answers once. -/
theorem CommandRun.single {i : Instr} {s t : State} {es : List PortIn}
    (edges : s.edges = commandEdge (encode i) :: es) (h : exec i (passEdge s) = .next t) :
    CommandRun [i] [t.rsp] s t := by
  have hstep : step s = .next t := (step_of_decode edges (commandEdge_event _) (decode_encode i)).trans h
  have left : t.edges = es := by rw [step_edges hstep, edges, List.tail_cons]
  obtain ⟨valid, -⟩ := exec_port h
  exact ⟨by rw [edges, left]; rfl, runSteps_succ hstep 0, by simp [responses_succ hstep, valid, responses]⟩

theorem CommandRun.cons {i : Instr} {is : List Instr} {rs : List Response} {s t u : State} {es : List PortIn}
    (edges : s.edges = commandEdge (encode i) :: es) (h : exec i (passEdge s) = .next t)
    (rest : CommandRun is rs t u) : CommandRun (i :: is) (t.rsp :: rs) s u :=
  (CommandRun.single edges h).append rest

/-! ## Absorbing a payload (R82, R90) -/

theorem sum8_cons (b : Byte) (bs : List Byte) : sum8 (b :: bs) = b + sum8 bs := by
  apply BitVec.eq_of_toNat_eq
  rw [BitVec.toNat_add, sum8_toNat, sum8_toNat, List.map_cons, List.sum_cons, Nat.add_mod_mod]

/-- R82: OVF after one more byte. -/
theorem ovfAfterByte_eq (len : Word32) (ovf : Bool) :
    ovfAfterByte len ovf = (ovf || decide (len.toNat = 0xFFFFFFFF)) := by
  have at_max : len = Config.lenMax ↔ len.toNat = 0xFFFFFFFF := BitVec.toNat_inj.symm
  by_cases h : len = Config.lenMax
  · rw [ovfAfterByte, if_pos h, decide_eq_true (at_max.mp h), Bool.or_true]
  · rw [ovfAfterByte, if_neg h, decide_eq_false (mt at_max.mpr h), Bool.or_false]

/-- The payload registers of `t` are those of `s` after the bytes `bs`. -/
structure PayloadAbsorbed (bs : List Byte) (s t : State) : Prop where
  acc : t.acc = s.acc + sum8 bs
  len : t.len.toNat = min (s.len.toNat + bs.length) 0xFFFFFFFF
  ovf : t.ovf = (s.ovf || decide (0xFFFFFFFF < s.len.toNat + bs.length))

theorem PayloadAbsorbed.nil (s : State) : PayloadAbsorbed [] s s := by
  have len_lt := s.len.isLt
  refine ⟨by simp [sum8], ?_, ?_⟩
  · rw [List.length_nil]; omega
  · rw [decide_eq_false (by rw [List.length_nil]; omega), Bool.or_false]

/-- One byte and then the others. -/
theorem PayloadAbsorbed.cons {b : Byte} {bs : List Byte} {s t : State} (rest : PayloadAbsorbed bs (absorb b s) t) :
    PayloadAbsorbed (b :: bs) s t := by
  have len_lt := s.len.isLt
  have len_after : (lenAfterByte s.len).toNat = min (s.len.toNat + 1) 0xFFFFFFFF := lenAfterByte_toNat s.len
  obtain ⟨acc, len, ovf⟩ := rest
  rw [absorb_acc] at acc
  rw [absorb_len, len_after] at len ovf
  rw [absorb_ovf, ovfAfterByte_eq, Bool.or_assoc] at ovf
  have too_long : (s.len.toNat = 0xFFFFFFFF ∨ 0xFFFFFFFF < min (s.len.toNat + 1) 0xFFFFFFFF + bs.length) ↔
      0xFFFFFFFF < s.len.toNat + (b :: bs).length := by
    rw [List.length_cons]
    omega
  exact ⟨by rw [acc, sum8_cons, BitVec.add_assoc], by rw [len, List.length_cons]; omega,
    by rw [ovf, ← Bool.decide_or, decide_eq_decide.mpr too_long]⟩

/-- R90: a payload is answered `(OK, 0x00)` throughout and leaves its sum, its number and whether it is too long. -/
theorem exists_commandRun_payload (bs : List Byte) {s : State} {es : List PortIn}
    (edges : s.edges = commandEdges (bs.map .abs) ++ es) :
    ∃ t, CommandRun (bs.map .abs) (List.replicate bs.length ⟨.ok, 0x00⟩) s t ∧ t.edges = es ∧
      PayloadAbsorbed bs s t := by
  induction bs generalizing s with
  | nil => exact ⟨s, .nil s, edges, .nil s⟩
  | cons b bs ih =>
    obtain ⟨t, run, left, absorbed⟩ :=
      ih (s := respond .ok 0x00 (absorb b (passEdge s))) (congrArg List.tail edges)
    exact ⟨t, .cons edges rfl run, left, .cons ⟨absorbed.acc, absorbed.len, absorbed.ovf⟩⟩

/-! ## Emitting the header (R102, R103) -/

/-- R102: with a header built and not exhausted, EMT answers the byte at HIDX. -/
theorem exec_emt_of_lt {s : State} (hvalid : s.hvalid = true) (room : s.hidx.val < 12) :
    exec .emt s = .next (respond .ok s.hdr[s.hidx.val] (advanceIndex s)) := by
  have available := (availableByte_eq_some_iff s _).mpr ⟨hvalid, room, rfl⟩
  rw [exec, execEmt, available]

/-- R102: with no header built, EMT answers `ERR_SEQ`. -/
theorem exec_emt_of_not_hvalid {s : State} (hvalid : s.hvalid = false) : exec .emt s = .next (raise .seq s) := by
  have unavailable := (availableByte_eq_none_iff s).mpr (.inl hvalid)
  rw [exec, execEmt, unavailable]

/-- R103: as many EMTs as bytes are left hand out the rest of the header in order. -/
theorem exists_commandRun_emits (n : Nat) {s : State} {es : List PortIn} (hvalid : s.hvalid = true)
    (left : s.hidx.val + n = 12) (edges : s.edges = commandEdges (List.replicate n .emt) ++ es) :
    ∃ t, CommandRun (List.replicate n .emt) ((s.hdr.toList.drop s.hidx.val).map (⟨.ok, ·⟩)) s t := by
  induction n generalizing s with
  | zero =>
    have exhausted : s.hdr.toList.drop s.hidx.val = [] :=
      List.drop_eq_nil_of_le (by rw [Vector.length_toList]; omega)
    rw [exhausted]
    exact ⟨s, .nil s⟩
  | succ n ih =>
    have room : s.hidx.val < 12 := by omega
    have next_hidx : (advanceIndex s).hidx.val = s.hidx.val + 1 := advanceIndex_hidx_val_of_lt room
    have next_left : (advanceIndex s).hidx.val + n = 12 := by omega
    obtain ⟨t, run⟩ := ih (s := respond .ok s.hdr[s.hidx.val] (advanceIndex (passEdge s))) hvalid next_left
      (congrArg List.tail edges)
    rw [List.drop_eq_getElem_cons (by rw [Vector.length_toList]; exact room), ← next_hidx]
    exact ⟨t, .cons edges (exec_emt_of_lt (s := passEdge s) hvalid room) run⟩

/-- R133: with no header built, every EMT answers `ERR_SEQ`. -/
theorem exists_commandRun_emits_of_not_hvalid (n : Nat) {s : State} {es : List PortIn} (hvalid : s.hvalid = false)
    (edges : s.edges = commandEdges (List.replicate n .emt) ++ es) :
    ∃ t, CommandRun (List.replicate n .emt) (List.replicate n ⟨.err .seq, 0x00⟩) s t := by
  induction n generalizing s with
  | zero => exact ⟨s, .nil s⟩
  | succ n ih =>
    obtain ⟨t, run⟩ := ih (s := raise .seq (passEdge s)) hvalid (congrArg List.tail edges)
    exact ⟨t, .cons edges (exec_emt_of_not_hvalid (s := passEdge s) hvalid) run⟩

/-! ## The two pseudo-instructions (R75) -/

/-- The commands after the CLR of BUILDHEADER. -/
def headerWork (bs : List Byte) : List Instr := bs.map .abs ++ [.bld] ++ List.replicate 12 .emt

theorem commandEdges_headerWork (bs : List Byte) :
    commandEdges (headerWork bs) =
      commandEdges (bs.map .abs) ++ (commandEdge (encode .bld) :: commandEdges (List.replicate 12 .emt)) := by
  rw [headerWork, commandEdges_append, commandEdges_append, List.append_assoc]; rfl

/-- The payload registers after a payload absorbed from the reset registers: what R104 says of them. -/
theorem PayloadAbsorbed.of_cleared {bs : List Byte} {s t : State} (absorbed : PayloadAbsorbed bs s t)
    (cleared : SameRegisters s State.reset) :
    t.acc = sum8 bs ∧ t.len.toNat = min bs.length 0xFFFFFFFF ∧ t.ovf = decide (0xFFFFFFFF < bs.length) := by
  obtain ⟨acc, len, ovf⟩ := absorbed
  have zero_len : s.len.toNat = 0 := congrArg BitVec.toNat cleared.len
  rw [cleared.acc] at acc
  rw [zero_len, Nat.zero_add] at len ovf
  rw [cleared.ovf] at ovf
  exact ⟨acc.trans (BitVec.zero_add _), len, ovf⟩

/-- R104: from the reset registers, a payload that fits is answered by the twelve bytes of its header. -/
theorem exists_commandRun_headerWork_of_le {bs : List Byte} {s : State} (fits : bs.length ≤ 0xFFFFFFFF)
    (cleared : SameRegisters s State.reset) (edges : s.edges = commandEdges (headerWork bs)) :
    ∃ t, CommandRun (headerWork bs) (List.replicate bs.length ⟨.ok, 0x00⟩ ++ [⟨.ok, 0x00⟩] ++
      (hdr Config.magic (BitVec.ofNat 32 bs.length) (sum8 bs)).toList.map (⟨.ok, ·⟩)) s t := by
  obtain ⟨t, payload, t_edges, absorbed⟩ :=
    exists_commandRun_payload bs (edges.trans (commandEdges_headerWork bs))
  obtain ⟨acc, len, ovf⟩ := absorbed.of_cleared cleared
  rw [decide_eq_false (Nat.not_lt.mpr fits)] at ovf
  have len_eq : t.len = BitVec.ofNat 32 bs.length := by
    apply BitVec.eq_of_toNat_eq
    rw [len, BitVec.toNat_ofNat]
    omega
  obtain ⟨u, emits⟩ := exists_commandRun_emits 12 (s := respond .ok 0x00 (latchHeader (passEdge t))) (es := [])
    rfl rfl ((congrArg List.tail t_edges).trans (List.append_nil _).symm)
  rw [← acc, ← len_eq]
  exact ⟨u, (payload.append (.single t_edges (exec_bld_of_not_ovf (s := passEdge t) ovf))).append emits⟩

/-- R104: from the reset registers, a payload that is too long is answered by the errors. -/
theorem exists_commandRun_headerWork_of_lt {bs : List Byte} {s : State} (long : 0xFFFFFFFF < bs.length)
    (cleared : SameRegisters s State.reset) (edges : s.edges = commandEdges (headerWork bs)) :
    ∃ t, CommandRun (headerWork bs) (List.replicate bs.length ⟨.ok, 0x00⟩ ++ [⟨.err .oversize, 0x00⟩] ++
      List.replicate 12 ⟨.err .seq, 0x00⟩) s t := by
  obtain ⟨t, payload, t_edges, absorbed⟩ :=
    exists_commandRun_payload bs (edges.trans (commandEdges_headerWork bs))
  obtain ⟨-, -, ovf⟩ := absorbed.of_cleared cleared
  rw [decide_eq_true long] at ovf
  obtain ⟨u, emits⟩ := exists_commandRun_emits_of_not_hvalid 12 (s := raise .oversize (wipeHeader (passEdge t)))
    (es := []) rfl ((congrArg List.tail t_edges).trans (List.append_nil _).symm)
  exact ⟨u, (payload.append (.single t_edges (exec_bld_of_ovf (s := passEdge t) ovf))).append emits⟩

/-- R80: CLR leaves the reset registers and answers `(OK, 0x00)`, whatever the state before. -/
theorem exists_commandRun_clr {s : State} {es : List PortIn} (edges : s.edges = commandEdge (encode .clr) :: es) :
    ∃ t, CommandRun [.clr] [⟨.ok, 0x00⟩] s t ∧ t.edges = es ∧ SameRegisters t State.reset :=
  ⟨_, .single edges rfl, congrArg List.tail edges, rfl, rfl, rfl, rfl, rfl, rfl⟩

theorem assemble_checksum (bs : List Byte) :
    assemble (.checksum (bs.map BitVec.toNat)) = .ok ((checksumProgram bs).map encode) := by
  rw [assemble, byteOperands_map_toNat]; rfl

theorem assemble_buildHeader (bs : List Byte) :
    assemble (.buildHeader (bs.map BitVec.toNat)) = .ok ((buildHeaderProgram bs).map encode) := by
  rw [assemble, byteOperands_map_toNat]; rfl

/-- The words of BUILDHEADER, number by number. -/
theorem map_encode_buildHeaderProgram (bs : List Byte) :
    (buildHeaderProgram bs).map encode =
      0x000 :: bs.map (fun b => BitVec.ofNat 11 (0x100 + b.toNat)) ++ 0x300 :: List.replicate 12 0x400 := by
  have abs_word (b : Byte) : encode (.abs b) = BitVec.ofNat 11 (0x100 + b.toNat) := by
    rw [← encode_abs_toNat, BitVec.ofNat_toNat, BitVec.setWidth_eq]
  have payload : (bs.map Instr.abs).map encode = bs.map (fun b => BitVec.ofNat 11 (0x100 + b.toNat)) := by
    rw [List.map_map]
    exact List.map_congr_left fun b _ => abs_word b
  rw [buildHeaderProgram, List.map_append, List.map_append, List.map_append, payload, List.append_assoc]
  rfl

/-- Settles O39: CLR makes the sum start at zero, the payload adds up to `sum8`, and RDC reads it. -/
theorem checksumProgramAnswersSum8 : Obligations.ChecksumProgramAnswersSum8 := by
  unfold Obligations.ChecksumProgramAnswersSum8
  refine fun bs s => ⟨assemble_checksum bs, ?_⟩
  obtain ⟨t, clear, t_edges, cleared⟩ := exists_commandRun_clr
    (s := { s with edges := commandEdges (checksumProgram bs) }) rfl
  obtain ⟨u, payload, u_edges, absorbed⟩ := exists_commandRun_payload bs (es := commandEdges [.rdc])
    (t_edges.trans (commandEdges_append _ _))
  obtain ⟨acc, -, -⟩ := absorbed.of_cleared cleared
  have read : CommandRun [.rdc] [⟨.ok, sum8 bs⟩] u (respond .ok u.acc (passEdge u)) :=
    acc ▸ .single u_edges rfl
  have length : (checksumProgram bs).length = bs.length + 2 := by simp [checksumProgram]
  rw [← length, List.replicate_succ]
  exact ((clear.append payload).append read).answers

/-- After its CLR, BUILDHEADER presents the commands of R104. -/
theorem commandEdges_buildHeaderProgram (bs : List Byte) :
    commandEdges (buildHeaderProgram bs) = commandEdge (encode .clr) :: commandEdges (headerWork bs) :=
  rfl

/-- What BUILDHEADER answers is the answer to its CLR and what the commands after it answer from the reset
registers. -/
theorem responses_buildHeaderProgram {bs : List Byte} {rs : List Response} (s : State)
    (work : ∀ t, SameRegisters t State.reset → t.edges = commandEdges (headerWork bs) →
      ∃ u, CommandRun (headerWork bs) rs t u) :
    responses (bs.length + 14) { s with edges := commandEdges (buildHeaderProgram bs) } = ⟨.ok, 0x00⟩ :: rs := by
  obtain ⟨t, clear, t_edges, cleared⟩ := exists_commandRun_clr
    (s := { s with edges := commandEdges (buildHeaderProgram bs) }) (commandEdges_buildHeaderProgram bs)
  obtain ⟨u, run⟩ := work t cleared t_edges
  have length : ([Instr.clr] ++ headerWork bs).length = bs.length + 14 := by simp [headerWork]
  rw [← length]
  exact (clear.append run).answers

/-- Settles O44: the words are those of the commands, CLR makes the reset registers, and from these the payload, BLD
and the EMTs answer the header or the errors. -/
theorem buildHeaderProgramEmitsBuildHeader : Obligations.BuildHeaderProgramEmitsBuildHeader := by
  unfold Obligations.BuildHeaderProgramEmitsBuildHeader
  intro bs s
  refine ⟨map_encode_buildHeaderProgram bs ▸ assemble_buildHeader bs, assemble_buildHeader bs,
    commandEdges_buildHeaderProgram bs, fun fits => ?_, fun long => ?_⟩
  · refine ⟨_, buildHeader_of_length_le fits, ?_⟩
    rw [List.replicate_succ, List.replicate_succ']
    exact responses_buildHeaderProgram s fun _ => exists_commandRun_headerWork_of_le fits
  · rw [List.replicate_succ, List.append_cons]
    exact responses_buildHeaderProgram s fun _ => exists_commandRun_headerWork_of_lt long

end Sys2Proof.Machine
end

section
/-! PROOFS. The checksum unit (spec/40_checksum.md R80 to R91): what CLR, ABS and RDC do, what any edges without reset
and CLR leave in ACC, LEN and OVF, and that no command reads the response port. The statements O11, O13, O14, O30, O34
and O35. -/

namespace Sys2Proof.Machine

/-! ## The payload registers after any edges without reset and CLR (R86, R90) -/

theorem sum8_append (bs cs : List Byte) : sum8 (bs ++ cs) = sum8 bs + sum8 cs := by
  apply BitVec.eq_of_toNat_eq
  rw [sum8_append_toNat, BitVec.toNat_add]

theorem absorbedBytes_append (es fs : List PortIn) :
    absorbedBytes (es ++ fs) = absorbedBytes es ++ absorbedBytes fs :=
  List.filterMap_append

/-- The payload bytes that a command brings in: ABS its operand, no other command any (R83). -/
def instrPayload : Instr → List Byte
  | .abs imm8 => [imm8]
  | .clr | .rdc | .bld | .emt | .rds => []

theorem absorbedBytes_singleton_of_none {p : PortIn} (h : edgeInstr p = none) : absorbedBytes [p] = [] := by
  simp [absorbedBytes, absorbedByte, h]

theorem absorbedBytes_singleton_of_some {p : PortIn} {i : Instr} (h : edgeInstr p = some i) :
    absorbedBytes [p] = instrPayload i := by
  cases i <;> simp [absorbedBytes, absorbedByte, h, instrPayload, payloadByte]

theorem keepsPayload_iff {p : PortIn} :
    keepsPayload p = true ↔ p.event ≠ .reset ∧ edgeInstr p ≠ some .clr := by
  simp [keepsPayload]

/-- Everything one step can do, by what its edge decodes to. -/
theorem step_edge_cases {s t : State} {p : PortIn} {es : List PortIn} (edges : s.edges = p :: es)
    (h : step s = .next t) :
    (p.event = .reset ∧ t = takeReset (passEdge s)) ∨
    (p.event ≠ .reset ∧ edgeInstr p = none ∧ SameRegisters t s) ∨
    (∃ i, edgeInstr p = some i ∧ exec i (passEdge s) = .next t) := by
  obtain ⟨event, rfl⟩ | ⟨event, rfl⟩ | ⟨w, i, event, decoded, h⟩ | ⟨w, e, event, decoded, rfl⟩ := step_cases h
  all_goals rw [nextEvent_cons edges] at event
  · exact .inl ⟨event, rfl⟩
  · exact .inr (.inl ⟨by simp [event], by simp [edgeInstr, event], rfl, rfl, rfl, rfl, rfl, rfl⟩)
  · exact .inr (.inr ⟨i, by simp [edgeInstr, event, decoded, Except.toOption], h⟩)
  · exact .inr (.inl ⟨by simp [event], by simp [edgeInstr, event, decoded, Except.toOption],
      rfl, rfl, rfl, rfl, rfl, rfl⟩)

/-- The law speaks of ACC, LEN and OVF alone. -/
theorem PayloadAbsorbed.of_eq {bs : List Byte} {s t u : State} (h : PayloadAbsorbed bs s u) (acc : t.acc = u.acc)
    (len : t.len = u.len) (ovf : t.ovf = u.ovf) : PayloadAbsorbed bs s t :=
  ⟨acc.trans h.acc, len ▸ h.len, ovf.trans h.ovf⟩

theorem PayloadAbsorbed.append {bs cs : List Byte} {s t u : State} (first : PayloadAbsorbed bs s t)
    (second : PayloadAbsorbed cs t u) : PayloadAbsorbed (bs ++ cs) s u := by
  have too_long : 0xFFFFFFFF < s.len.toNat + bs.length ∨
      0xFFFFFFFF < min (s.len.toNat + bs.length) 0xFFFFFFFF + cs.length ↔
      0xFFFFFFFF < s.len.toNat + (bs ++ cs).length := by
    rw [List.length_append]
    omega
  refine ⟨?_, ?_, ?_⟩
  · rw [second.acc, first.acc, sum8_append, BitVec.add_assoc]
  · rw [second.len, first.len, List.length_append]
    omega
  · rw [second.ovf, first.ovf, first.len, Bool.or_assoc, ← Bool.decide_or, decide_eq_decide.mpr too_long]

/-- R82, R86: ABS absorbs its byte, and of the other commands CLR alone writes ACC, LEN or OVF. -/
theorem exec_payloadAbsorbed {i : Instr} {s t : State} (h : exec i s = .next t) (not_clr : i ≠ .clr) :
    PayloadAbsorbed (instrPayload i) s t := by
  obtain ⟨rfl, -⟩ | ⟨b, rfl, rfl⟩ | ⟨rfl, rfl⟩ | ⟨rfl, -, rfl⟩ | ⟨rfl, -, rfl⟩ | ⟨b, rfl, -, rfl⟩ | ⟨rfl, -, rfl⟩ |
    ⟨rfl, rfl⟩ := exec_cases h
  · exact absurd rfl not_clr
  · exact (PayloadAbsorbed.nil (absorb b s)).cons.of_eq rfl rfl rfl
  all_goals exact (PayloadAbsorbed.nil s).of_eq rfl rfl rfl

theorem step_payloadAbsorbed {s t : State} {p : PortIn} {es : List PortIn} (edges : s.edges = p :: es)
    (keeps : keepsPayload p = true) (h : step s = .next t) : PayloadAbsorbed (absorbedBytes [p]) s t := by
  obtain ⟨no_reset, no_clr⟩ := keepsPayload_iff.mp keeps
  obtain ⟨reset, -⟩ | ⟨-, no_instr, same⟩ | ⟨i, instr, h⟩ := step_edge_cases edges h
  · exact absurd reset no_reset
  · rw [absorbedBytes_singleton_of_none no_instr]
    exact (PayloadAbsorbed.nil s).of_eq same.acc same.len same.ovf
  · rw [absorbedBytes_singleton_of_some instr]
    obtain ⟨acc, len, ovf⟩ := exec_payloadAbsorbed h fun clr => no_clr (instr.trans (congrArg some clr))
    exact ⟨acc, len, ovf⟩

/-- R86, R90: over any edges without reset and CLR the payload registers move by the absorbed bytes alone. -/
theorem exists_run_payloadAbsorbed (es : List PortIn) {s : State} {rest : List PortIn} (edges : s.edges = es ++ rest)
    (keeps : ∀ p ∈ es, keepsPayload p = true) :
    ∃ t, runSteps es.length s = some t ∧ t.edges = rest ∧ PayloadAbsorbed (absorbedBytes es) s t := by
  induction es generalizing s with
  | nil => exact ⟨s, rfl, edges, .nil s⟩
  | cons p es ih =>
    obtain ⟨keeps_p, keeps_es⟩ := List.forall_mem_cons.mp keeps
    obtain ⟨u, hstep⟩ := step_has_next s
    have first := step_payloadAbsorbed edges keeps_p hstep
    have u_edges : u.edges = es ++ rest := by rw [step_edges hstep, edges]; rfl
    obtain ⟨t, run, t_edges, others⟩ := ih u_edges keeps_es
    refine ⟨t, (runSteps_succ hstep es.length).trans run, t_edges, ?_⟩
    rw [← List.singleton_append, absorbedBytes_append]
    exact first.append others

/-- Settles O34: every edge moves the payload registers by its own absorbed byte, if any. -/
theorem absorptionContinuesFromAnyState : Obligations.AbsorptionContinuesFromAnyState := by
  unfold Obligations.AbsorptionContinuesFromAnyState
  intro s es keeps
  obtain ⟨t, run, -, acc, len, ovf⟩ :=
    exists_run_payloadAbsorbed es (s := { s with edges := es }) (List.append_nil es).symm keeps
  exact ⟨t, run, by rw [acc, BitVec.toNat_add], len, ovf⟩

/-- R90 from the reset registers. -/
theorem runSteps_payload_of_cleared {es : List PortIn} {s t : State} (cleared : SameRegisters s State.reset)
    (edges : s.edges = es) (keeps : ∀ p ∈ es, keepsPayload p = true) (run : runSteps es.length s = some t) :
    t.acc = sum8 (absorbedBytes es) ∧ t.len.toNat = min (absorbedBytes es).length 0xFFFFFFFF ∧
      t.ovf = decide (0xFFFFFFFF < (absorbedBytes es).length) := by
  obtain ⟨u, run_u, -, absorbed⟩ := exists_run_payloadAbsorbed es (edges.trans (List.append_nil es).symm) keeps
  cases run.symm.trans run_u
  exact absorbed.of_cleared cleared

/-- Settles O35: a CLR makes the reset registers, from these the absorbed bytes give ACC, LEN and OVF, and RDC reads
ACC. -/
theorem streamedChecksumIsSum8 : Obligations.StreamedChecksumIsSum8 := by
  unfold Obligations.StreamedChecksumIsSum8
  intro es keeps s t start
  have from_cleared : ∃ u, SameRegisters u State.reset ∧ u.edges = es ∧ runSteps es.length u = some t := by
    obtain ⟨cleared, run⟩ | run := start
    · obtain ⟨acc, len, ovf, hdr, hvalid, hidx⟩ := cleared
      exact ⟨{ s with edges := es }, ⟨acc, len, ovf, hdr, hvalid, hidx⟩, rfl, run⟩
    · obtain ⟨u, clear, u_edges, cleared⟩ := exists_commandRun_clr
        (s := { s with edges := commandEdge 0x000 :: es }) rfl
      rw [Nat.add_comm] at run
      exact ⟨u, cleared, u_edges, (runSteps_add clear.steps es.length).symm.trans run⟩
  obtain ⟨u, cleared, edges, run⟩ := from_cleared
  obtain ⟨acc, len, ovf⟩ := runSteps_payload_of_cleared cleared edges keeps run
  exact ⟨acc, len, ovf, respond .ok t.acc t, rfl, congrArg (Response.mk .ok) acc⟩

/-! ## CLR, ABS and RDC (R80, R82, R84) -/

/-- Settles O11: CLR writes every register, and any other command leaves an OVF of 1. -/
theorem clrClearsEveryRegister : Obligations.ClrClearsEveryRegister := by
  unfold Obligations.ClrClearsEveryRegister
  refine ⟨⟨rfl, decode_eq_ok_iff.mpr rfl⟩, fun s => rfl, fun i s t h ovf_before ovf_after => ?_⟩
  by_contra not_clr
  have ovf := (exec_payloadAbsorbed h not_clr).ovf
  rw [ovf_before, ovf_after, Bool.true_or] at ovf
  cases ovf

theorem encode_abs (b : Byte) : encode (.abs b) = BitVec.ofNat 11 (0x100 + b.toNat) := by
  rw [← encode_abs_toNat, BitVec.ofNat_toNat, BitVec.setWidth_eq]

/-- Settles O13: the three registers that `absorb` writes, as numbers. -/
theorem absAddsAndCountsOneByte : Obligations.AbsAddsAndCountsOneByte := by
  unfold Obligations.AbsAddsAndCountsOneByte
  refine fun b => ⟨encode_abs_toNat b, decode_eq_ok_iff.mpr (encode_abs b), fun s => ?_⟩
  exact ⟨respond .ok 0x00 (absorb b s), rfl, BitVec.toNat_add s.acc b, lenAfterByte_toNat s.len,
    ovfAfterByte_eq s.len s.ovf, rfl, rfl, rfl, rfl, rfl, rfl⟩

/-- Settles O14: RDC writes the response port alone. -/
theorem rdcAnswersTheAccumulator : Obligations.RdcAnswersTheAccumulator := by
  unfold Obligations.RdcAnswersTheAccumulator
  exact ⟨rfl, decode_eq_ok_iff.mpr rfl, fun _ => rfl⟩

/-! ## No step reads the response port (R91) -/

/-- `s` with another content of the response port. -/
def withResponse (valid : Bool) (r : Response) (s : State) : State := { s with rspValid := valid, rsp := r }

/-- States with the same registers and the same edges to come differ in the response port alone. -/
theorem SameRegisters.eq_withResponse {s t : State} (same : SameRegisters s t) (edges : s.edges = t.edges) :
    t = withResponse t.rspValid t.rsp s := by
  obtain ⟨acc, len, ovf, hdr, hvalid, hidx⟩ := same
  rw [withResponse, acc, len, ovf, hdr, hvalid, hidx, edges]

/-- Every command overwrites the response port and reads nothing of it. -/
theorem exec_withResponse (i : Instr) (valid : Bool) (r : Response) (s : State) :
    exec i (withResponse valid r s) = exec i s := by
  cases i <;> rfl

theorem step_of_reset {s : State} (event : nextEvent s = .reset) : step s = .next (takeReset (passEdge s)) := by
  rw [step, event]

theorem step_of_idle {s : State} (event : nextEvent s = .idle) : step s = .next (takeIdle (passEdge s)) := by
  rw [step, event]

theorem step_of_instr {s : State} {w : CmdWord} {i : Instr} (event : nextEvent s = .command w)
    (decoded : decode w = .ok i) : step s = exec i (passEdge s) := by
  simp only [step, event, decoded]

theorem step_of_illegal {s : State} {w : CmdWord} {e : DecodeError} (event : nextEvent s = .command w)
    (decoded : decode w = .error e) : step s = .next (takeIllegal (passEdge s)) := by
  simp only [step, event, decoded]

/-- From states that differ in the response port alone, a step leads to states that differ in the response port alone,
and not even there where it answers. -/
theorem step_withResponse {s t : State} (h : step s = .next t) (valid : Bool) (r : Response) :
    ∃ r', step (withResponse valid r s) = .next (withResponse t.rspValid r' t) ∧
      (t.rspValid = true → r' = t.rsp) := by
  obtain ⟨event, rfl⟩ | ⟨event, rfl⟩ | ⟨w, i, event, decoded, h⟩ | ⟨w, e, event, decoded, rfl⟩ := step_cases h
  · exact ⟨r, step_of_reset (s := withResponse valid r s) event, nofun⟩
  · exact ⟨r, step_of_idle (s := withResponse valid r s) event, nofun⟩
  · refine ⟨t.rsp, ?_, fun _ => rfl⟩
    calc step (withResponse valid r s)
      _ = exec i (passEdge (withResponse valid r s)) := step_of_instr (s := withResponse valid r s) event decoded
      _ = exec i (passEdge s) := exec_withResponse i valid r (passEdge s)
      _ = .next t := h
  · exact ⟨_, step_of_illegal (s := withResponse valid r s) event decoded, fun _ => rfl⟩

/-- What the response port holds before a run changes no response of it. -/
theorem responses_withResponse (k : Nat) (valid : Bool) (r : Response) (s : State) :
    responses k (withResponse valid r s) = responses k s := by
  induction k generalizing valid r s with
  | zero => rfl
  | succ k ih =>
    obtain ⟨t, hstep⟩ := step_has_next s
    obtain ⟨r', hstep', answer⟩ := step_withResponse hstep valid r
    have head : (if t.rspValid then [r'] else []) = if t.rspValid then [t.rsp] else [] :=
      ite_congr rfl (fun valid => congrArg (fun r => [r]) (answer valid)) fun _ => rfl
    rw [responses_succ hstep, responses_succ hstep', ih]
    exact congrArg (· ++ responses k t) head

/-- What the response port holds before a run changes no register after it. -/
theorem sameRegisters_of_runSteps_withResponse (k : Nat) (valid : Bool) (r : Response) {s u v : State}
    (run : runSteps k s = some u) (run' : runSteps k (withResponse valid r s) = some v) : SameRegisters u v := by
  induction k generalizing valid r s with
  | zero =>
    cases run
    cases run'
    exact ⟨rfl, rfl, rfl, rfl, rfl, rfl⟩
  | succ k ih =>
    obtain ⟨t, hstep⟩ := step_has_next s
    obtain ⟨r', hstep', -⟩ := step_withResponse hstep valid r
    rw [runSteps_succ hstep] at run
    rw [runSteps_succ hstep'] at run'
    exact ih t.rspValid r' run run'

/-- Settles O30: the two states differ in the response port alone, which no step reads. -/
theorem responsesDependOnRegistersAndInputsAlone : Obligations.ResponsesDependOnRegistersAndInputsAlone := by
  unfold Obligations.ResponsesDependOnRegistersAndInputsAlone
  intro k s t same edges
  rw [same.eq_withResponse edges]
  exact ⟨(responses_withResponse k _ _ s).symm, fun _ _ => sameRegisters_of_runSteps_withResponse k _ _⟩

end Sys2Proof.Machine
end

section
/-! PROOFS. The header serializer (spec/41_header.md R100 to R107): what BLD and EMT do, what any edges that leave a
latched header in place do to it, and what the header of a payload says. The statements O10, O15, O16, O36, O37, O38
and O40. -/

namespace Sys2Proof.Machine

/-! ## The two headers the source works out (R106) -/

theorem sum8_replicate (n : Nat) (b : Byte) : sum8 (List.replicate n b) = BitVec.ofNat 8 (n * b.toNat) := by
  apply BitVec.eq_of_toNat_eq
  rw [sum8_toNat, List.map_replicate, List.sum_replicate, smul_eq_mul, BitVec.toNat_ofNat]

/-- Settles O10: 1024 bytes `0x01` add up to 1024, which is 0 modulo 256. -/
theorem sourceInstancesBuildTheirHeaders : Obligations.SourceInstancesBuildTheirHeaders := by
  unfold Obligations.SourceInstancesBuildTheirHeaders
  have checksum : sum8 (List.replicate 1024 0x01) = 0x00 := sum8_replicate 1024 0x01
  refine ⟨?_, ?_⟩
  · rw [buildHeader_of_length_le (by rw [List.length_replicate]; decide), List.length_replicate, checksum]
    decide
  · rw [buildHeader_of_length_le (Nat.zero_le _)]
    decide

/-! ## BLD and EMT (R100, R102) -/

/-- R132: only BLD answers `ERR_OVERSIZE`. -/
theorem eq_bld_of_exec_oversize {i : Instr} {s t : State} (h : exec i s = .next t)
    (oversize : t.rsp.code = .err .oversize) : i = .bld := by
  obtain ⟨-, rfl⟩ | ⟨b, -, rfl⟩ | ⟨-, rfl⟩ | ⟨bld, -⟩ | ⟨bld, -⟩ | ⟨b, -, -, rfl⟩ | ⟨-, -, rfl⟩ | ⟨-, rfl⟩ :=
    exec_cases h
  · cases oversize
  · cases oversize
  · cases oversize
  · exact bld
  · exact bld
  · cases oversize
  · cases oversize
  · cases oversize

/-- Settles O15: the twelve bytes are those of `hdr(MAGIC, LEN, ACC)`, and OVF decides the case. -/
theorem bldLatchesTheHeaderOrFails : Obligations.BldLatchesTheHeaderOrFails := by
  unfold Obligations.BldLatchesTheHeaderOrFails
  refine ⟨rfl, decode_eq_ok_iff.mpr rfl, fun s ovf => ?_, fun s => exec_bld_of_ovf,
    fun i s t => eq_bld_of_exec_oversize⟩
  obtain ⟨h0, h1, h2, h3, -⟩ := hdr_magic_fixedBytes s.len s.acc
  obtain ⟨-, -, len, acc_zeros⟩ := hdrConcatenatesTheThreeFields Config.magic s.len s.acc
  have len_lt := s.len.isLt
  have top : s.len.toNat / 16777216 % 256 = s.len.toNat / 16777216 := by omega
  exact ⟨hdr Config.magic s.len s.acc, exec_bld_of_not_ovf ovf, h0, h1, h2, h3,
    (len 0).trans (by simp), len 1, len 2, (len 3).trans top, acc_zeros⟩

/-- R102: with no header byte available, EMT answers `ERR_SEQ`. -/
theorem exec_emt_of_unavailable {s : State} (h : s.hvalid = false ∨ s.hidx = 12) :
    exec .emt s = .next (raise .seq s) := by
  have unavailable := (availableByte_eq_none_iff s).mpr h
  rw [exec, execEmt, unavailable]

/-- Settles O16: whether a byte is available decides the case. -/
theorem emtAnswersTheNextHeaderByteOrFails : Obligations.EmtAnswersTheNextHeaderByteOrFails := by
  unfold Obligations.EmtAnswersTheNextHeaderByteOrFails
  refine ⟨rfl, decode_eq_ok_iff.mpr rfl, fun s hvalid room => ?_, fun s => exec_emt_of_unavailable⟩
  exact ⟨(advanceIndex s).hidx, advanceIndex_hidx_val_of_lt room, exec_emt_of_lt hvalid room⟩

/-! ## A latched header over any edges without reset, CLR and BLD (R103) -/

/-- The header registers of `t`, where a header is latched, are those of `s` after `n` EMTs. -/
structure HeaderEmitted (n : Nat) (s t : State) : Prop where
  hdr : t.hdr = s.hdr
  hvalid : t.hvalid = true
  hidx : t.hidx.val = min (s.hidx.val + n) 12

/-- How many EMTs a command is. -/
def instrEmits (i : Instr) : Nat := if i = .emt then 1 else 0

theorem emitCount_cons (p : PortIn) (es : List PortIn) : emitCount (p :: es) = emitCount [p] + emitCount es := by
  rw [emitCount, ← List.singleton_append, List.countP_append]; rfl

theorem emitCount_singleton_of_none {p : PortIn} (h : edgeInstr p = none) : emitCount [p] = 0 := by
  simp [emitCount, h]

theorem emitCount_singleton_of_some {p : PortIn} {i : Instr} (h : edgeInstr p = some i) :
    emitCount [p] = instrEmits i := by
  simp [emitCount, h, instrEmits, List.countP_cons]

theorem keepsHeader_iff {p : PortIn} :
    keepsHeader p = true ↔ keepsPayload p = true ∧ edgeInstr p ≠ some .bld := by
  simp [keepsHeader]

/-- The registers of the header stand as they were. -/
theorem HeaderEmitted.of_kept {s t : State} (hvalid : s.hvalid = true) (same_hdr : t.hdr = s.hdr)
    (same_hvalid : t.hvalid = s.hvalid) (same_hidx : t.hidx = s.hidx) : HeaderEmitted 0 s t := by
  have hidx_lt := s.hidx.isLt
  exact ⟨same_hdr, same_hvalid.trans hvalid, by rw [same_hidx]; omega⟩

theorem HeaderEmitted.append {m n : Nat} {s t u : State} (first : HeaderEmitted m s t) (second : HeaderEmitted n t u) :
    HeaderEmitted (m + n) s u := by
  refine ⟨second.hdr.trans first.hdr, second.hvalid, ?_⟩
  rw [second.hidx, first.hidx]
  omega

/-- R26, R102: EMT moves HIDX by one, at most to 12, and of the other commands CLR and BLD alone write a register of the
header. -/
theorem exec_headerEmitted {i : Instr} {s t : State} (h : exec i s = .next t) (hvalid : s.hvalid = true)
    (not_clr : i ≠ .clr) (not_bld : i ≠ .bld) : HeaderEmitted (instrEmits i) s t := by
  obtain ⟨rfl, -⟩ | ⟨b, rfl, rfl⟩ | ⟨rfl, rfl⟩ | ⟨rfl, -⟩ | ⟨rfl, -⟩ | ⟨b, rfl, available, rfl⟩ |
    ⟨rfl, unavailable, rfl⟩ | ⟨rfl, rfl⟩ := exec_cases h
  · exact absurd rfl not_clr
  · exact .of_kept hvalid rfl rfl rfl
  · exact .of_kept hvalid rfl rfl rfl
  · exact absurd rfl not_bld
  · exact absurd rfl not_bld
  · obtain ⟨-, room, -⟩ := (availableByte_eq_some_iff s b).mp available
    have next : (advanceIndex s).hidx.val = s.hidx.val + 1 := advanceIndex_hidx_val_of_lt room
    exact ⟨rfl, hvalid, next.trans (Nat.min_eq_left room).symm⟩
  · have exhausted : s.hidx = 12 := ((availableByte_eq_none_iff s).mp unavailable).resolve_left (by simp [hvalid])
    exact ⟨rfl, hvalid, by rw [raise_hidx, exhausted]; rfl⟩
  · exact .of_kept hvalid rfl rfl rfl

theorem step_headerEmitted {s t : State} {p : PortIn} {es : List PortIn} (edges : s.edges = p :: es)
    (hvalid : s.hvalid = true) (keeps : keepsHeader p = true) (h : step s = .next t) :
    HeaderEmitted (emitCount [p]) s t := by
  obtain ⟨keeps_payload, no_bld⟩ := keepsHeader_iff.mp keeps
  obtain ⟨no_reset, no_clr⟩ := keepsPayload_iff.mp keeps_payload
  obtain ⟨reset, -⟩ | ⟨-, no_instr, same⟩ | ⟨i, instr, h⟩ := step_edge_cases edges h
  · exact absurd reset no_reset
  · rw [emitCount_singleton_of_none no_instr]
    exact .of_kept hvalid same.hdr same.hvalid same.hidx
  · rw [emitCount_singleton_of_some instr]
    obtain ⟨hdr, hvalid, hidx⟩ := exec_headerEmitted h hvalid
      (fun clr => no_clr (instr.trans (congrArg some clr))) (fun bld => no_bld (instr.trans (congrArg some bld)))
    exact ⟨hdr, hvalid, hidx⟩

/-- R103: over any edges without reset, CLR and BLD a latched header stands, and HIDX counts the EMTs up to 12. -/
theorem exists_run_headerEmitted (es : List PortIn) {s : State} {rest : List PortIn} (edges : s.edges = es ++ rest)
    (hvalid : s.hvalid = true) (keeps : ∀ p ∈ es, keepsHeader p = true) :
    ∃ t, runSteps es.length s = some t ∧ t.edges = rest ∧ HeaderEmitted (emitCount es) s t := by
  induction es generalizing s with
  | nil => exact ⟨s, rfl, edges, .of_kept hvalid rfl rfl rfl⟩
  | cons p es ih =>
    obtain ⟨keeps_p, keeps_es⟩ := List.forall_mem_cons.mp keeps
    obtain ⟨u, hstep⟩ := step_has_next s
    have first := step_headerEmitted edges hvalid keeps_p hstep
    have u_edges : u.edges = es ++ rest := by rw [step_edges hstep, edges]; rfl
    obtain ⟨t, run, t_edges, others⟩ := ih u_edges first.hvalid keeps_es
    exact ⟨t, (runSteps_succ hstep es.length).trans run, t_edges, emitCount_cons p es ▸ first.append others⟩

/-- Settles O36: BLD puts HIDX to 0, the edges after it move it by one an EMT and keep HDR, and the next EMT reads
both. -/
theorem emissionGivesTheLatchedBytesInOrder : Obligations.EmissionGivesTheLatchedBytesInOrder := by
  unfold Obligations.EmissionGivesTheLatchedBytesInOrder
  intro s ovf es keeps
  have bld := exec_bld_of_not_ovf ovf
  obtain ⟨u, run, -, emitted⟩ := exists_run_headerEmitted es
    (s := { respond .ok 0x00 (latchHeader s) with edges := es }) (List.append_nil es).symm rfl keeps
  have hidx : u.hidx.val = min (emitCount es) 12 := emitted.hidx.trans (congrArg (min · 12) (Nat.zero_add _))
  obtain ⟨v, emit⟩ := exec_has_next .emt u
  refine ⟨_, u, v, bld, run, emit, hidx, fun below => ?_, fun above => ?_⟩
  · rw [Nat.min_eq_left below.le] at hidx
    cases emit.symm.trans (exec_emt_of_lt emitted.hvalid (hidx.trans_lt below))
    simp only [respond_rsp, hidx, emitted.hdr]
  · have exhausted : u.hidx = 12 := Fin.ext (hidx.trans (Nat.min_eq_right above))
    cases emit.symm.trans (exec_emt_of_unavailable (.inr exhausted))
    rfl

/-! ## The header of a payload (R104, R105, R107) -/

/-- The registers do not include the edges to come. -/
theorem SameRegisters.with_edges {s t : State} (same : SameRegisters s t) (es : List PortIn) :
    SameRegisters { s with edges := es } t :=
  ⟨same.acc, same.len, same.ovf, same.hdr, same.hvalid, same.hidx⟩

/-- R104: after a payload that fits, absorbed from the reset registers, OVF is 0 and the header of LEN and ACC is the
payload's. -/
theorem PayloadAbsorbed.hdr_of_cleared {bs : List Byte} {s t : State} (absorbed : PayloadAbsorbed bs s t)
    (cleared : SameRegisters s State.reset) (fits : bs.length ≤ 0xFFFFFFFF) :
    t.ovf = false ∧ hdr Config.magic t.len t.acc = hdr Config.magic (BitVec.ofNat 32 bs.length) (sum8 bs) := by
  obtain ⟨acc, len, ovf⟩ := absorbed.of_cleared cleared
  rw [Nat.min_eq_left fits] at len
  exact ⟨ovf.trans (decide_eq_false (Nat.not_lt.mpr fits)),
    by rw [acc, ← len, BitVec.ofNat_toNat, BitVec.setWidth_eq]⟩

/-- Settles O40: the payload registers at the BLD are those of the bytes before it, and the edges after it leave HDR. -/
theorem builtHeaderDescribesTheBytesBeforeIt : Obligations.BuiltHeaderDescribesTheBytesBeforeIt := by
  unfold Obligations.BuiltHeaderDescribesTheBytesBeforeIt
  intro s before later cleared keeps_before keeps_later fits
  obtain ⟨t, run_before, t_edges, absorbed⟩ := exists_run_payloadAbsorbed before
    (s := { s with edges := before ++ commandEdge 0x300 :: later }) rfl keeps_before
  obtain ⟨ovf, header⟩ := absorbed.hdr_of_cleared (cleared.with_edges _) fits
  have bld := CommandRun.single t_edges (exec_bld_of_not_ovf (s := passEdge t) ovf)
  obtain ⟨u, run_later, -, emitted⟩ := exists_run_headerEmitted later
    (s := respond .ok 0x00 (latchHeader (passEdge t)))
    ((congrArg List.tail t_edges).trans (List.append_nil later).symm) rfl keeps_later
  have decoded := decodeHeader_hdr_of_length_le fits
  rw [← emitted.hdr.trans header] at decoded
  refine ⟨u, ?_, emitted.hvalid, decoded⟩
  rw [Nat.add_assoc, runSteps_add run_before]
  exact (runSteps_add bld.steps later.length).trans run_later

/-! ## The command sequence of R104 and the EMT after it (R105) -/

@[simp] theorem edgeInstr_commandEdge (i : Instr) : edgeInstr (commandEdge (encode i)) = some i := by
  simp [edgeInstr, Except.toOption]

theorem emitCount_commandEdges (is : List Instr) : emitCount (commandEdges is) = is.count .emt := by
  rw [emitCount, commandEdges, List.countP_map, List.count]
  exact List.countP_congr fun i _ => by simp

theorem keepsHeader_commandEdge {i : Instr} (keeps : i ≠ .clr ∧ i ≠ .bld) :
    keepsHeader (commandEdge (encode i)) = true := by
  simp [keepsHeader_iff, keepsPayload_iff, keeps]

/-- R103 for a list of commands. -/
theorem CommandRun.headerEmitted {is : List Instr} {rs : List Response} {s t : State} (run : CommandRun is rs s t)
    (hvalid : s.hvalid = true) (keeps : ∀ i ∈ is, i ≠ .clr ∧ i ≠ .bld) : HeaderEmitted (is.count .emt) s t := by
  obtain ⟨u, run_u, -, emitted⟩ := exists_run_headerEmitted (commandEdges is) run.edges hvalid
    (List.forall_mem_map.mpr fun i mem => keepsHeader_commandEdge (keeps i mem))
  rw [commandEdges, List.length_map] at run_u
  cases run.steps.symm.trans run_u
  exact emitCount_commandEdges is ▸ emitted

/-- R105: thirteen EMTs from the start of a header hand out its twelve bytes and then answer `ERR_SEQ`. -/
theorem exists_commandRun_thirteen_emits {s : State} (hvalid : s.hvalid = true) (start : s.hidx = 0)
    (edges : s.edges = commandEdges (List.replicate 12 Instr.emt ++ [Instr.emt])) :
    ∃ t, CommandRun (List.replicate 12 Instr.emt ++ [Instr.emt])
      (s.hdr.toList.map (⟨.ok, ·⟩) ++ [Response.mk (.err .seq) 0x00]) s t := by
  obtain ⟨u, emits⟩ := exists_commandRun_emits 12 hvalid (by rw [start]; rfl)
    (edges.trans (commandEdges_append _ [Instr.emt]))
  rw [start] at emits
  have emitted := emits.headerEmitted hvalid fun i mem => by simp [List.eq_of_mem_replicate mem]
  have exhausted : u.hidx = 12 := by
    apply Fin.ext
    rw [emitted.hidx, List.count_replicate_self]
    exact Nat.min_eq_right (Nat.le_add_left 12 _)
  have u_edges : u.edges = commandEdges [.emt] :=
    List.append_cancel_left (emits.edges.symm.trans (edges.trans (commandEdges_append _ [Instr.emt])))
  exact ⟨_, emits.append (.single u_edges (exec_emt_of_unavailable (s := passEdge u) (.inr exhausted)))⟩

/-- R105: from the reset registers, the commands of R104 and one more EMT. -/
theorem exists_commandRun_headerWork_emt {bs : List Byte} {s : State} (fits : bs.length ≤ 0xFFFFFFFF)
    (cleared : SameRegisters s State.reset) (edges : s.edges = commandEdges (headerWork bs ++ [Instr.emt])) :
    ∃ t, CommandRun (headerWork bs ++ [Instr.emt]) (List.replicate bs.length ⟨.ok, 0x00⟩ ++ [⟨.ok, 0x00⟩] ++
      ((hdr Config.magic (BitVec.ofNat 32 bs.length) (sum8 bs)).toList.map (⟨.ok, ·⟩) ++
        [Response.mk (.err .seq) 0x00])) s t := by
  have split : headerWork bs ++ [Instr.emt] =
      bs.map Instr.abs ++ ([Instr.bld] ++ (List.replicate 12 Instr.emt ++ [Instr.emt])) := by
    simp only [headerWork, List.append_assoc]
  rw [split, commandEdges_append] at edges
  obtain ⟨t, payload, t_edges, absorbed⟩ := exists_commandRun_payload bs edges
  obtain ⟨ovf, header⟩ := absorbed.hdr_of_cleared cleared fits
  obtain ⟨u, emits⟩ := exists_commandRun_thirteen_emits (s := respond .ok 0x00 (latchHeader (passEdge t))) rfl rfl
    (congrArg List.tail t_edges)
  rw [split, List.append_assoc, ← header]
  exact ⟨u, payload.append ((CommandRun.single t_edges (exec_bld_of_not_ovf (s := passEdge t) ovf)).append emits)⟩

/-- R69: what a consumer reads, field by field. -/
theorem decodeHeader_eq_iff {h : Vector Byte 12} {magic length checksum32 : Nat} :
    decodeHeader h = ⟨magic, length, checksum32⟩ ↔
      unle32 #v[h[0], h[1], h[2], h[3]] = magic ∧ unle32 #v[h[4], h[5], h[6], h[7]] = length ∧
      unle32 #v[h[8], h[9], h[10], h[11]] = checksum32 := by
  rw [decodeHeader, HeaderFields.mk.injEq]

/-- The two starts of R104: what commands answer from the reset registers they also answer after a CLR from any state,
after its `(OK, 0x00)`. -/
theorem answers_of_cleared_or_clr {is : List Instr} {P : List Response → Prop} (s : State)
    (run : ∀ t, SameRegisters t State.reset → t.edges = commandEdges is → ∃ rs u, CommandRun is rs t u ∧ P rs) :
    (SameRegisters s State.reset → P (responses (commandEdges is).length { s with edges := commandEdges is })) ∧
    ∃ rs, responses ((commandEdges is).length + 1) { s with edges := commandEdge 0x000 :: commandEdges is } =
      ⟨.ok, 0x00⟩ :: rs ∧ P rs := by
  have length : (commandEdges is).length = is.length := List.length_map _
  rw [length]
  constructor
  · intro cleared
    obtain ⟨rs, u, work, answers⟩ := run { s with edges := commandEdges is } (cleared.with_edges _) rfl
    exact work.answers ▸ answers
  · obtain ⟨t, clear, t_edges, cleared⟩ := exists_commandRun_clr
      (s := { s with edges := commandEdge 0x000 :: commandEdges is }) rfl
    obtain ⟨rs, u, work, answers⟩ := run t cleared t_edges
    exact ⟨rs, (clear.append work).answers, answers⟩

/-- Settles O37: from the reset registers, which a CLR makes, the payload, BLD and the EMTs answer the header or the
errors. -/
theorem commandSequenceEmitsBuildHeader : Obligations.CommandSequenceEmitsBuildHeader := by
  unfold Obligations.CommandSequenceEmitsBuildHeader
  intro bs s work answers
  refine answers_of_cleared_or_clr (is := headerWork bs) (P := answers) s fun t cleared edges => ?_
  obtain long | fits := Nat.lt_or_ge 0xFFFFFFFF bs.length
  · obtain ⟨u, work⟩ := exists_commandRun_headerWork_of_lt long cleared edges
    exact ⟨_, u, work, fun fits => absurd fits (Nat.not_le.mpr long), fun _ => (List.append_cons _ _ _).symm⟩
  · obtain ⟨u, work⟩ := exists_commandRun_headerWork_of_le fits cleared edges
    exact ⟨_, u, work, fun _ => ⟨_, buildHeader_of_length_le fits, rfl, (List.append_cons _ _ _).symm⟩,
      fun long => absurd fits (Nat.not_le.mpr long)⟩

/-- Settles O38: the twelve bytes handed out are a `hdr`, which decodes to its fields, and then HIDX is 12. -/
theorem emittedHeaderDecodesToThePayload : Obligations.EmittedHeaderDecodesToThePayload := by
  unfold Obligations.EmittedHeaderDecodesToThePayload
  intro bs s fits work decodes
  have decoded := decodeHeader_hdr_of_length_le fits
  have run (t : State) (cleared : SameRegisters t State.reset) (edges : t.edges = work) :
      ∃ rs u, CommandRun (headerWork bs ++ [Instr.emt]) rs t u ∧ decodes rs := by
    obtain ⟨u, work⟩ := exists_commandRun_headerWork_emt fits cleared edges
    exact ⟨_, u, work, _, List.drop_left' (by simp), decodeHeader_eq_iff.mp decoded⟩
  obtain ⟨from_cleared, rs, after_clr, answers⟩ := answers_of_cleared_or_clr s run
  exact ⟨from_cleared, after_clr ▸ answers⟩

end Sys2Proof.Machine
end

section
/-! PROOFS. The status read, illegal words and the idle edge (spec/42_status.md R120 to R124): the byte that RDS answers,
the edge of a word that is no command, and that a step reads of the edges to come only the one it passes. The statements
O17, O26 and O28. -/

namespace Sys2Proof.Machine

/-! ## The status byte (R27, R120) -/

/-- The three fields of STATUS do not overlap, so the byte is their weighted sum. -/
theorem statusByte_toNat (s : State) :
    (statusByte s).toNat = 4 * s.hidx.val + 2 * s.hvalid.toNat + s.ovf.toNat := by
  unfold statusByte
  generalize s.hidx = i, s.hvalid = v, s.ovf = o
  revert i v o
  decide

/-- The index is at most 12 and takes four bits from bit 2 on, so the two bits above it read as zero. -/
theorem statusByte_getElem_of_ge (s : State) {k : Nat} (high : 6 ≤ k) (hk : k < 8) : (statusByte s)[k] = false := by
  have value := statusByte_toNat s
  have index := s.hidx.isLt
  have hvalid := s.hvalid.toNat_le
  have ovf := s.ovf.toNat_le
  have value_lt : (statusByte s).toNat < 2 ^ k :=
    calc (statusByte s).toNat
      _ < 2 ^ 6 := by omega
      _ ≤ 2 ^ k := Nat.pow_le_pow_right Nat.two_pos high
  rw [← BitVec.getLsbD_eq_getElem, BitVec.getLsbD, Nat.testBit_lt_two_pow value_lt]

theorem statusByte_getElem_one (s : State) : (statusByte s)[1] = s.hvalid := by
  simp [statusByte]

theorem statusByte_getElem_zero (s : State) : (statusByte s)[0] = s.ovf := by
  simp [statusByte]

/-- R120: without a header the index is 0 and only OVF is left; with one, each of the 13 indices gives two values. -/
theorem statusByte_mem_of_registerInvariants {s : State} (inv : RegisterInvariants s) :
    (statusByte s).toNat ∈ [0x00, 0x01] ++ (List.range 13).map (fun j => 0x02 + 4 * j) ++
      (List.range 13).map (fun j => 0x03 + 4 * j) := by
  have index := s.hidx.isLt
  rw [statusByte_toNat, List.mem_append, List.mem_append, List.mem_map, List.mem_map]
  cases hvalid : s.hvalid with
  | false =>
    obtain ⟨hidx, -⟩ := inv.unbuilt hvalid
    refine .inl (.inl ?_)
    cases s.ovf <;> simp [hidx]
  | true =>
    cases s.ovf with
    | false => exact .inl (.inr ⟨s.hidx.val, List.mem_range.mpr index, Nat.add_comm 2 _⟩)
    | true => exact .inr ⟨s.hidx.val, List.mem_range.mpr index, Nat.add_comm 3 _⟩

/-- Settles O17: RDS writes the response port alone, with the status byte. -/
theorem rdsAnswersTheStatusByte : Obligations.RdsAnswersTheStatusByte := by
  unfold Obligations.RdsAnswersTheStatusByte
  refine ⟨rfl, decode_eq_ok_iff.mpr rfl, fun s => ?_⟩
  exact ⟨statusByte s, rfl, statusByte_toNat s, statusByte_getElem_of_ge s (by decide) (by decide),
    statusByte_getElem_of_ge s (by decide) (by decide), statusByte_getElem_one s, statusByte_getElem_zero s,
    statusByte_mem_of_registerInvariants⟩

/-! ## Illegal words (R122) -/

/-- Settles O26: the ranges are those between the legal words, and at such an edge the step takes the illegal-word
case, which writes the response port alone. -/
theorem illegalWordAnswersErrIllegal : Obligations.IllegalWordAnswersErrIllegal := by
  unfold Obligations.IllegalWordAnswersErrIllegal
  refine ⟨fun w => ?_, fun s p es e edges no_reset valid decoded => ?_⟩
  · rw [exists_decode_eq_error_iff]
    omega
  · have event : p.event = .command p.cmd := by simp [PortIn.event, no_reset, valid]
    rw [step_of_illegal ((nextEvent_cons edges).trans event) decoded, passEdge_of_edges edges]
    rfl

/-! ## A step reads only the edge it passes -/

/-- `s` with other edges to come. -/
def withEdges (es : List PortIn) (s : State) : State := { s with edges := es }

/-- No command reads or writes the edges to come. -/
theorem exec_withEdges {i : Instr} {s t : State} (h : exec i s = .next t) (es : List PortIn) :
    exec i (withEdges es s) = .next (withEdges es t) := by
  obtain ⟨rfl, rfl⟩ | ⟨b, rfl, rfl⟩ | ⟨rfl, rfl⟩ | ⟨rfl, ovf, rfl⟩ | ⟨rfl, ovf, rfl⟩ | ⟨b, rfl, available, rfl⟩ |
    ⟨rfl, unavailable, rfl⟩ | ⟨rfl, rfl⟩ := exec_cases h
  · rfl
  · rfl
  · rfl
  · exact exec_bld_of_ovf (s := withEdges es s) ovf
  · exact exec_bld_of_not_ovf (s := withEdges es s) ovf
  · obtain ⟨hvalid, room, rfl⟩ := (availableByte_eq_some_iff _ _).mp available
    exact exec_emt_of_lt (s := withEdges es s) hvalid room
  · exact exec_emt_of_unavailable (s := withEdges es s) ((availableByte_eq_none_iff s).mp unavailable)
  · rfl

/-- A step passes its edge and leaves the edges after it unread. -/
theorem step_withEdges {s t : State} {p : PortIn} {es : List PortIn} (h : step (withEdges (p :: es) s) = .next t)
    (fs : List PortIn) : step (withEdges (p :: fs) s) = .next (withEdges fs t) := by
  obtain ⟨event, rfl⟩ | ⟨event, rfl⟩ | ⟨w, i, event, decoded, h⟩ | ⟨w, e, event, decoded, rfl⟩ := step_cases h
  · exact step_of_reset (s := withEdges (p :: fs) s) event
  · exact step_of_idle (s := withEdges (p :: fs) s) event
  · exact (step_of_instr (s := withEdges (p :: fs) s) event decoded).trans (exec_withEdges h fs)
  · exact step_of_illegal (s := withEdges (p :: fs) s) event decoded

/-! ## The idle edge (R124) -/

/-- The edge is a reset or presents a word. -/
def busyEdge (p : PortIn) : Bool := p.event != .idle

theorem busyEdge_eq_false_iff {p : PortIn} : busyEdge p = false ↔ p.event = .idle := by
  simp [busyEdge]

/-- An idle edge empties `rsp_valid` and does nothing else, so the responses after it are those without it. -/
theorem responses_idle_cons {p : PortIn} (idle : p.event = .idle) (k : Nat) (es : List PortIn) (s : State) :
    responses (k + 1) (withEdges (p :: es) s) = responses k (withEdges es s) := by
  have hstep : step (withEdges (p :: es) s) = .next (withResponse false s.rsp (withEdges es s)) :=
    step_of_idle (s := withEdges (p :: es) s) idle
  calc responses (k + 1) (withEdges (p :: es) s)
    _ = responses k (withResponse false s.rsp (withEdges es s)) := responses_succ hstep k
    _ = responses k (withEdges es s) := responses_withResponse k false s.rsp (withEdges es s)

/-- A run answers what the run over its busy edges answers. -/
theorem responses_filter_busyEdge (es : List PortIn) (s : State) :
    responses es.length (withEdges es s) =
      responses (es.filter busyEdge).length (withEdges (es.filter busyEdge) s) := by
  induction es generalizing s with
  | nil => rfl
  | cons p es ih =>
    cases busy : busyEdge p with
    | false =>
      rw [List.filter_cons_of_neg (by simp [busy]), List.length_cons,
        responses_idle_cons (busyEdge_eq_false_iff.mp busy), ih]
    | true =>
      obtain ⟨t, hstep⟩ := step_has_next (withEdges (p :: es) s)
      rw [List.filter_cons_of_pos busy, List.length_cons, List.length_cons,
        responses_succ (step_withEdges hstep es), responses_succ (step_withEdges hstep (es.filter busyEdge)), ih]
      rfl

/-- Settles O28: an idle edge writes `rsp_valid` alone, which no later step reads, and every other edge does the same
whatever edges follow it. -/
theorem idleEdgesHaveNoEffect : Obligations.IdleEdgesHaveNoEffect := by
  unfold Obligations.IdleEdgesHaveNoEffect
  refine ⟨fun s p es edges no_reset invalid => ?_, fun s es => responses_filter_busyEdge es s⟩
  have event : p.event = .idle := by simp [PortIn.event, no_reset, invalid]
  have hstep := step_of_idle ((nextEvent_cons edges).trans event)
  exact ⟨_, hstep, ⟨rfl, rfl, rfl, rfl, rfl, rfl⟩, rfl, (step_edges hstep).trans (by rw [edges, List.tail_cons])⟩

end Sys2Proof.Machine
end

section
/-! PROOFS. The three errors (spec/60_exceptions.md R130 to R135): which answer a command word gets, said once as
`CommandAnswer`, and what a failed BLD leaves behind. The statements O20, O21 and O41. -/

namespace Sys2Proof.Machine

/-! ## The answer to a command word (R130, R135) -/

/-- R130, R135: at an edge that presents `w`, FRM goes from `s` to `t` with one of the three errors, each with its cause
and its whole next state, or with `OK` where the decoded command has no cause for an error. -/
inductive CommandAnswer (w : CmdWord) (s t : State) : Prop where
  | oversize (decoded : decode w = .ok .bld) (cause : s.ovf = true)
      (next : t = raise .oversize (wipeHeader (passEdge s)))
  | seq (decoded : decode w = .ok .emt) (cause : s.hvalid = false ∨ s.hidx = 12) (next : t = raise .seq (passEdge s))
  | illegal (e : DecodeError) (decoded : decode w = .error e) (next : t = takeIllegal (passEdge s))
  | ok (i : Instr) (decoded : decode w = .ok i) (no_oversize : i = .bld → s.ovf = false)
      (no_seq : i = .emt → s.hvalid = true ∧ s.hidx ≠ 12) (code : t.rsp.code = .ok)

/-- Of the legal commands BLD and EMT alone have an error case. -/
theorem commandAnswer_of_exec {w : CmdWord} {i : Instr} {s t : State} (decoded : decode w = .ok i)
    (h : exec i (passEdge s) = .next t) : CommandAnswer w s t := by
  obtain ⟨rfl, rfl⟩ | ⟨b, rfl, rfl⟩ | ⟨rfl, rfl⟩ | ⟨rfl, ovf, rfl⟩ | ⟨rfl, ovf, rfl⟩ | ⟨b, rfl, available, rfl⟩ |
    ⟨rfl, unavailable, rfl⟩ | ⟨rfl, rfl⟩ := exec_cases h
  · exact .ok _ decoded nofun nofun rfl
  · exact .ok _ decoded nofun nofun rfl
  · exact .ok _ decoded nofun nofun rfl
  · exact .oversize decoded ovf rfl
  · exact .ok _ decoded (fun _ => ovf) nofun rfl
  · obtain ⟨hvalid, room, -⟩ := (availableByte_eq_some_iff (passEdge s) b).mp available
    have not_exhausted : s.hidx ≠ 12 := Fin.ne_of_lt room
    exact .ok _ decoded nofun (fun _ => ⟨hvalid, not_exhausted⟩) rfl
  · exact .seq decoded ((availableByte_eq_none_iff (passEdge s)).mp unavailable) rfl
  · exact .ok _ decoded nofun nofun rfl

/-- Every step at an edge that presents a word gives one of the four answers. -/
theorem commandAnswer_of_step {w : CmdWord} {s t : State} (event : nextEvent s = .command w) (h : step s = .next t) :
    CommandAnswer w s t := by
  cases decoded : decode w with
  | ok i => exact commandAnswer_of_exec decoded ((step_of_instr event decoded).symm.trans h)
  | error e =>
    cases (step_of_illegal event decoded).symm.trans h
    exact .illegal e decoded rfl

/-- Settles O20: the four answers exclude each other, and an error's cause belongs to one command or to no command. -/
theorem errorsAreAnsweredExactlyWhenTheRulesSay : Obligations.ErrorsAreAnsweredExactlyWhenTheRulesSay := by
  unfold Obligations.ErrorsAreAnsweredExactlyWhenTheRulesSay
  refine ⟨⟨rfl, rfl, rfl, rfl⟩, fun s t w event h => ?_⟩
  cases commandAnswer_of_step event h with
  | oversize decoded cause next => simp [next, decoded, cause]
  | seq decoded cause next => simp [next, decoded, cause]
  | illegal e decoded next => simp [next, decoded]
  | ok i decoded no_oversize no_seq code => simpa [code, decoded] using ⟨no_oversize, no_seq⟩

/-- Settles O21: the next state of each error is known whole, and every state has a next step. -/
theorem errorResponsesChangeOnlyWhatTheyList : Obligations.ErrorResponsesChangeOnlyWhatTheyList := by
  unfold Obligations.ErrorResponsesChangeOnlyWhatTheyList
  intro s t w event h
  cases commandAnswer_of_step event h with
  | oversize _ _ next =>
    subst next
    exact ⟨by simp, fun _ => ⟨rfl, rfl, rfl, rfl, rfl, rfl⟩, step_has_next _⟩
  | seq _ _ next | illegal _ _ next =>
    subst next
    exact ⟨fun _ => ⟨rfl, rfl, rfl, rfl, rfl, rfl⟩, by simp, step_has_next _⟩
  | ok _ _ _ _ code => exact ⟨by simp [code], by simp [code], step_has_next t⟩

/-! ## After a failed BLD (R132) -/

/-- The payload is too long, no header is built, and no edge to come resets or clears. -/
structure HeaderWithheld (s : State) : Prop where
  ovf : s.ovf = true
  hvalid : s.hvalid = false
  keeps : ∀ p ∈ s.edges, keepsPayload p = true

/-- With no reset and no CLR among the edges to come, the next edge is neither. -/
theorem not_cleared_of_keepsPayload {s : State} (keeps : ∀ p ∈ s.edges, keepsPayload p = true) :
    ¬ (nextEvent s = .reset ∨ Runs s .clr) := by
  cases edges : s.edges with
  | nil => simp [nextEvent, Runs, edges]
  | cons p es =>
    obtain ⟨no_reset, no_clr⟩ := keepsPayload_iff.mp (keeps p (by simp [edges]))
    rw [Runs, nextEvent_cons edges]
    rintro (reset | ⟨w, event, decoded⟩)
    · exact no_reset reset
    · exact no_clr (by simp [edgeInstr, event, decoded, Except.toOption])

/-- No step ends it: a byte leaves OVF at 1, with OVF 1 no header is latched, and with none EMT reads nothing. -/
theorem step_headerWithheld {s t : State} (withheld : HeaderWithheld s) (h : step s = .next t) : HeaderWithheld t := by
  obtain ⟨ovf, hvalid, keeps⟩ := withheld
  have keeps_after : ∀ p ∈ t.edges, keepsPayload p = true := fun p mem =>
    keeps p (List.mem_of_mem_tail (step_edges h ▸ mem))
  cases registerEffect_of_step h with
  | cleared event _ => exact absurd event (not_cleared_of_keepsPayload keeps)
  | absorbed b _ regs =>
    have ovf_kept : ovfAfterByte s.len s.ovf = true := by rw [ovfAfterByte_eq, ovf, Bool.true_or]
    exact ⟨regs.ovf.trans ovf_kept, regs.hvalid.trans hvalid, keeps_after⟩
  | wiped _ _ regs => exact ⟨regs.ovf.trans ovf, regs.hvalid, keeps_after⟩
  | latched _ no_ovf _ => cases ovf.symm.trans no_ovf
  | advanced _ built _ _ => cases built.symm.trans hvalid
  | kept regs => exact ⟨regs.ovf.trans ovf, regs.hvalid.trans hvalid, keeps_after⟩

/-- Settles O41: a failed BLD withholds the header, every edge after it goes on withholding it, and a withheld header
fails the next EMT and the next BLD. -/
theorem oversizePayloadYieldsNoHeaderByte : Obligations.OversizePayloadYieldsNoHeaderByte := by
  unfold Obligations.OversizePayloadYieldsNoHeaderByte
  intro s ovf es keeps
  have start : HeaderWithheld { raise .oversize (wipeHeader s) with edges := es } := ⟨ovf, rfl, keeps⟩
  obtain ⟨u, run, -, -⟩ := exists_run_payloadAbsorbed es
    (s := { raise .oversize (wipeHeader s) with edges := es }) (List.append_nil es).symm keeps
  have withheld : HeaderWithheld u := runSteps_keeps (fun _ _ => step_headerWithheld) es.length start run
  exact ⟨_, u, _, _, exec_bld_of_ovf ovf, rfl, run, withheld.ovf, exec_emt_of_not_hvalid withheld.hvalid, rfl,
    exec_bld_of_ovf withheld.ovf, rfl⟩

end Sys2Proof.Machine
end

section
/-! PROOFS. Reset and the end of a run (spec/70_reset_and_hazards.md R150, R164): what a reset edge leaves, and that no
run comes to a stop. The statements O27 and O29. -/

namespace Sys2Proof.Machine

/-! ## The reset edge (R150) -/

/-- R66, R150: with `rst` 1 the edge is a reset, whatever is on `cmd_valid` and `cmd`. -/
theorem event_eq_reset_of_rst {p : PortIn} (rst : p.rst = true) : p.event = .reset := by
  rw [PortIn.event, if_pos rst]

theorem takeReset_sameRegisters (s : State) : SameRegisters (takeReset s) State.reset :=
  ⟨rfl, rfl, rfl, rfl, rfl, rfl⟩

/-- Settles O27: `rst` alone decides the event, and a reset reads no register and no other input. -/
theorem resetEdgeWinsOverAnyCommand : Obligations.ResetEdgeWinsOverAnyCommand := by
  unfold Obligations.ResetEdgeWinsOverAnyCommand
  intro s p es edges rst
  have hstep := step_of_reset ((nextEvent_cons edges).trans (event_eq_reset_of_rst rst))
  exact ⟨_, hstep, takeReset_sameRegisters _, rfl, (step_edges hstep).trans (by rw [edges, List.tail_cons])⟩

/-! ## Every run goes on (R122, R164) -/

/-- A run of any length has a last state, because each of its steps has a next one. -/
theorem runSteps_has_last (k : Nat) (s : State) : ∃ t, runSteps k s = some t := by
  induction k generalizing s with
  | zero => exact ⟨s, rfl⟩
  | succ k ih =>
    obtain ⟨u, hstep⟩ := step_has_next s
    obtain ⟨t, run⟩ := ih u
    exact ⟨t, (runSteps_succ hstep k).trans run⟩

/-- Settles O29: no step stops from any state, reached or not, so no run does. -/
theorem everyRunGoesOn : Obligations.EveryRunGoesOn := by
  unfold Obligations.EveryRunGoesOn NeverStops
  exact fun s k => Option.isSome_iff_exists.mpr (runSteps_has_last k s)

end Sys2Proof.Machine
end
